-- ==== Sys2Proof/Word.lean ====
section
/-! DEFINITION. The word types of CORE (00_scope.md R6, R8): every value is an unsigned bit vector. -/

namespace Sys2Proof

/-- One byte: the addressable unit of the window (20_memory.md R34). -/
abbrev Byte := BitVec 8

/-- One 32-bit word of S, X or the window (00_scope.md R6). -/
abbrev Word := BitVec 32

/-- A 64-bit value: the block counter C (00_scope.md R6). -/
abbrev DWord := BitVec 64

/-- An 8-bit byte offset into the register window (20_memory.md R34). -/
abbrev Offset := BitVec 8

end Sys2Proof
end

