-- ==== Sys2Proof/Syntax.lean ====
section
/-! DEFINITION. The commands of CORE: one constructor per row of spec/opcode_table.json (30_encoding.md R53). -/

namespace Sys2Proof

/-- A command. The lengths are unsigned byte counts (30_encoding.md R54), so they are numbers; the word's fields hold
0 to 255, which `Instr.WellFormed` says (log entry 19). -/
inductive Instr where
  /-- INIT: construct a new instance; `klen` and `vlen` are the key and IV buffer lengths (40_commands.md R62). -/
  | init (klen vlen : Nat)
  /-- NEXT: produce the next keystream block (40_commands.md R63). -/
  | next
  /-- SETCTR: load the block counter from CTRSTG (40_commands.md R64). -/
  | setctr
deriving DecidableEq, Repr

end Sys2Proof
end

