-- ==== Sys2Proof/WellFormed.lean ====
section
/-! DEFINITION. Which commands have a word: the operands fit their fields (30_encoding.md R53, R54). -/

namespace Sys2Proof

/-- KLEN and VLEN are 8-bit fields, saturated at 255 (30_encoding.md R53, R54). -/
def Instr.WellFormed : Instr → Bool
  | .init klen vlen => decide (klen ≤ 255) && decide (vlen ≤ 255)
  | .next => true
  | .setctr => true

end Sys2Proof
end

