-- ==== Sys2Proof/Decode.lean ====
section
/-! DEFINITION. The command word F-CMD: the decoder, total on all 2^32 words (30_encoding.md R55, R56), and after it
the encoder, written from the same table (30_encoding.md R53, R55). -/

namespace Sys2Proof

/-- Why a word is illegal, by the list of 30_encoding.md R56. The spec gives an illegal word one outcome whatever the
reason; the reason is the model's own name for it (DESIGN CHOICE, log entry 21). -/
inductive IllegalWord where
  /-- OP is none of 1, 2, 3. -/
  | operation
  /-- RES0 or RES1 is not zero. -/
  | reservedBits
  /-- NEXT or SETCTR with KLEN or VLEN not zero. -/
  | operandBits
deriving DecidableEq, Repr

/-- The outcomes of the decoder: a command, or ILLEGAL (30_encoding.md R55). -/
inductive Decoded where
  | command (i : Instr)
  | illegal (why : IllegalWord)
deriving DecidableEq, Repr

namespace CmdWord

/-- OP, bits [3:0] (30_encoding.md R53). -/
def op (w : Word) : BitVec 4 := w.extractLsb' 0 4

/-- RES0, bits [7:4] (30_encoding.md R53). -/
def res0 (w : Word) : BitVec 4 := w.extractLsb' 4 4

/-- KLEN, bits [15:8] (30_encoding.md R53). -/
def klen (w : Word) : Byte := w.extractLsb' 8 8

/-- VLEN, bits [23:16] (30_encoding.md R53). -/
def vlen (w : Word) : Byte := w.extractLsb' 16 8

/-- RES1, bits [31:24] (30_encoding.md R53). -/
def res1 (w : Word) : Byte := w.extractLsb' 24 8

/-- The word with these five fields, most significant first (30_encoding.md R53). -/
def ofFields (res1 vlen klen : Byte) (res0 op : BitVec 4) : Word := res1 ++ vlen ++ klen ++ res0 ++ op

end CmdWord

/-- The command decoder (30_encoding.md R55). -/
def decode (w : Word) : Decoded :=
  if CmdWord.op w = 1 then
    if CmdWord.res0 w = 0 ∧ CmdWord.res1 w = 0 then
      .command (.init (CmdWord.klen w).toNat (CmdWord.vlen w).toNat)
    else .illegal .reservedBits
  else if CmdWord.op w = 2 ∨ CmdWord.op w = 3 then
    if CmdWord.res0 w = 0 ∧ CmdWord.res1 w = 0 then
      if CmdWord.klen w = 0 ∧ CmdWord.vlen w = 0 then
        .command (if CmdWord.op w = 2 then .next else .setctr)
      else .illegal .operandBits
    else .illegal .reservedBits
  else .illegal .operation

/-- The encoder: the word of a command (30_encoding.md R53, R55). -/
def encode : Instr → Word
  | .init klen vlen => CmdWord.ofFields 0 (BitVec.ofNat 8 vlen) (BitVec.ofNat 8 klen) 0 1
  | .next => CmdWord.ofFields 0 0 0 0 2
  | .setctr => CmdWord.ofFields 0 0 0 0 3

/-- The "match" column of 30_encoding.md R55. -/
def rowMatch : Instr → Word
  | .init _ _ => 0x00000001
  | .next => 0x00000002
  | .setctr => 0x00000003

/-- The "mask" column of 30_encoding.md R55. -/
def rowMask : Instr → Word
  | .init _ _ => 0xFF0000FF
  | .next => 0xFFFFFFFF
  | .setctr => 0xFFFFFFFF

/-- The command a decoded word stands for, if it is one. -/
def Decoded.command? : Decoded → Option Instr
  | .command i => some i
  | .illegal _ => none

/-- The host's reading of the table: bit 0 of `w` is bit 0 of the one 32-bit command word (30_encoding.md R53, R57);
the bits from `nbits` up are zero. Nothing longer than one word is a command. -/
def decodeTableWord (nbits w : Nat) : Option Instr :=
  if nbits ≤ 32 then (decode (BitVec.ofNat 32 (w % 2 ^ nbits))).command? else none

end Sys2Proof
end

