-- ==== Sys2Proof/Config.lean ====
section
/-! DEFINITION. What an implementation fixes, and the free values: constants with no body, so that no proof can see
what they are. -/

namespace Sys2Proof.Config

/-- The number of ROUND steps of one block (30_encoding.md R58, 42_round_sequencer.md R75; 90_conflicts.md C1). -/
def quarterRounds : Nat := 80

/-- Cycles from the acceptance of a NEXT to its FINAL step in the reference sequencer (70_reset_and_hazards.md R110;
00_scope.md R7). This cycle-level model follows it (DESIGN CHOICE, log entry 12). -/
def nextLatency : Nat := 81

/-- FREE VALUE (log entries 6 and 9). Word `i` of draw `n`: X[i] after a reset event (10_state.md R20, R33), and for
`i = 16` what a read returns in a reset cycle (70_reset_and_hazards.md R101). -/
opaque freeWord : Nat → Nat → Word

/-- FREE VALUE (log entries 6 and 7). The sequencer index q of draw `n`: after a reset event (10_state.md R33) and
after the ROUND step with q = 79 (42_round_sequencer.md R74). -/
opaque freeIndex : Nat → BitVec 7

end Sys2Proof.Config
end

