-- ==== Sys2Proof/Machine/State.lean ====
section
/-! DEFINITION. The state of CORE (10_state.md) and of its environment as plain data, the reasons a step can stop, and
the state after reset (10_state.md R33). -/

namespace Sys2Proof.Machine

/-- STATUS.STATE (10_state.md R25, R26). The value 3 is never produced, so it is not there
(93_implementation_defined.md U8). -/
inductive GenState where
  | uninit
  | active
  | exhausted
deriving DecidableEq, Repr

/-- The command error codes of STATUS.ERR (60_exceptions.md R87). The codes 6 and 7 are never produced. -/
inductive ErrCode where
  | ok
  | invalidKeyLength
  | invalidIvLength
  | outputExhausted
  | illegalCommand
  | notActive
deriving DecidableEq, Repr

/-- PHASE of the round sequencer (10_state.md R31). -/
inductive Phase where
  | idle
  | round
  | final
deriving DecidableEq, Repr

/-- Why an access (not the machine) stops. -/
inductive Fault where
  /-- A bus error (60_exceptions.md R90): raised by `hostRead`, `hostWrite` and `hostAccess` for an access that
  20_memory.md R38 does not admit. Safe: the access has no effect, and the host's answer to it is left open. `step`
  answers no fault: CORE goes on, and the fault is the access's `Response` (log entry 2). -/
  | busError
deriving DecidableEq, Repr

/-- Why a step has no meaning. -/
inductive Refusal where
  /-- The command named has no meaning in this model. Raised by no arm: every command has one. Safe. -/
  | notModelled (mnemonic : String)
deriving DecidableEq, Repr

/-- The width of a host access (20_memory.md R38). -/
inductive Width where
  | byte
  | word
  /-- Any other width, for example 16 or 64 bits, or a burst: always a bus error. -/
  | other (bits : Nat)
deriving DecidableEq, Repr

/-- Whether an access reads or writes. -/
inductive AccessKind where
  | read
  | write
deriving DecidableEq, Repr

/-- One host bus transaction: (R|W, width, address, data) (30_encoding.md R60). The address is a host address; an 8-bit
write carries its byte in bits [7:0] of `data`; a read's `data` means nothing. -/
structure Access where
  kind : AccessKind
  width : Width
  addr : Nat
  data : Word
deriving DecidableEq, Repr

/-- What the outside world does to CORE in one cycle: RST (70_reset_and_hazards.md R101), and at most one host access
(70_reset_and_hazards.md R104). -/
structure CycleInput where
  rst : Bool
  access : Option Access
deriving DecidableEq, Repr

/-- What the window answered in a cycle. -/
inductive Response where
  /-- No access reached CORE. -/
  | none
  /-- An admitted 8-bit read returned this byte (20_memory.md R41). -/
  | data8 (v : Byte)
  /-- An admitted 32-bit read returned this word (20_memory.md R41). -/
  | data32 (v : Word)
  /-- An admitted write was performed (20_memory.md R43). -/
  | done
  /-- The access ended in a fault and returned no data (60_exceptions.md R90). -/
  | fault (f : Fault)
  /-- The access fell in a reset cycle and had no effect; the spec says of its answer nothing
  (70_reset_and_hazards.md R101; log entry 9). -/
  | masked
deriving DecidableEq, Repr

/-- CORE and its environment. S[0..3] are hardwired and have no field (10_state.md R14): `State.S` supplies them.
BUSY is PHASE ≠ IDLE (10_state.md R31). CMD stores nothing (10_state.md R24). -/
structure State where
  /-- S[4..11], the key words (10_state.md R15). -/
  key : Vector Word 8
  /-- S[12], the low word of the block counter (10_state.md R16). -/
  ctrLo : Word
  /-- S[13], the high word of the block counter (10_state.md R16). -/
  ctrHi : Word
  /-- S[14..15], the nonce words (10_state.md R17). -/
  nonce : Vector Word 2
  /-- X[0..15], the working buffer (10_state.md R19). -/
  x : Vector Word 16
  /-- OUT[0..63], the output block (10_state.md R21). -/
  out : Vector Byte 64
  /-- KEYSTG[0..31] (10_state.md R23). -/
  keystg : Vector Byte 32
  /-- IVSTG[0..7] (10_state.md R23). -/
  ivstg : Vector Byte 8
  /-- CTRSTG[0..7] (10_state.md R23). -/
  ctrstg : Vector Byte 8
  /-- STATUS.STATE (10_state.md R26). -/
  gen : GenState
  /-- STATUS.VALID (10_state.md R28). -/
  valid : Bool
  /-- STATUS.ERR (10_state.md R29). -/
  err : ErrCode
  /-- STATUS.OVR (10_state.md R30). -/
  ovr : Bool
  /-- PHASE (10_state.md R31). -/
  phase : Phase
  /-- q, the quarter-round index (10_state.md R31). -/
  q : BitVec 7
  /-- The model's own: CORE_BASE / 0x100, the open parameter (00_scope.md R7; log entry 3). Nothing writes it. -/
  page : Nat
  /-- The model's own: what happens in the cycles to come, the present cycle first (log entry 1). -/
  inputs : List CycleInput
  /-- The model's own: what the window answered in the last cycle (log entry 16). -/
  response : Response
  /-- The model's own: how many times free values were drawn (log entry 10). -/
  draws : Nat
deriving DecidableEq, Repr

/-- CORE right after reset (10_state.md R33). X and q have no value there: zero is the model's (DESIGN CHOICE, log
entry 5), as are the model's own four fields (log entries 1, 3, 10, 16). -/
def State.reset : State where
  key := Vector.replicate 8 0
  ctrLo := 0
  ctrHi := 0
  nonce := Vector.replicate 2 0
  x := Vector.replicate 16 0
  out := Vector.replicate 64 0
  keystg := Vector.replicate 32 0
  ivstg := Vector.replicate 8 0
  ctrstg := Vector.replicate 8 0
  gen := .uninit
  valid := false
  err := .ok
  ovr := false
  phase := .idle
  q := 0
  page := 0
  inputs := []
  response := .none
  draws := 0

end Sys2Proof.Machine
end

