-- ==== Sys2Proof/Machine/Ops.lean ====
section
/-! DEFINITION. The shared operations over CORE's registers: byte order, the register files, the window's map, and
`raise`, the one way a command error is recorded. -/

namespace Sys2Proof.Machine

/-! ### Byte order (20_memory.md R36) -/

/-- LE32(b0, b1, b2, b3) = {b3, b2, b1, b0} (00_scope.md R10). -/
def le32 (b0 b1 b2 b3 : Byte) : Word := b3 ++ b2 ++ b1 ++ b0

/-- BYTE(w, j) = w[8j+7:8j] (00_scope.md R10). -/
def byteOf (w : Word) (j : Nat) : Byte := w.extractLsb' (8 * j) 8

/-! ### The state register file S -/

/-- S[0..3], the constant "expand 32-byte k" (10_state.md R14). -/
def constantWords : Vector Word 4 := #v[0x61707865, 0x3320646e, 0x79622d32, 0x6b206574]

/-- The sixteen words S[0..15] (10_state.md R13): constant, key, counter, nonce. -/
def State.S (s : State) : Vector Word 16 :=
  #v[constantWords[0], constantWords[1], constantWords[2], constantWords[3],
     s.key[0], s.key[1], s.key[2], s.key[3], s.key[4], s.key[5], s.key[6], s.key[7],
     s.ctrLo, s.ctrHi, s.nonce[0], s.nonce[1]]

/-- C = {S[13], S[12]}, the block counter (10_state.md R16). -/
def State.counter (s : State) : DWord := s.ctrHi ++ s.ctrLo

/-! ### The command interface's shared steps -/

/-- BUSY = (PHASE ≠ IDLE) (10_state.md R27, R31). -/
def State.busy (s : State) : Bool := decide (s.phase ≠ .idle)

/-- The acceptance step OVR <- 0, before the command's own effects (10_state.md R30, 20_memory.md R44). -/
def State.accept (s : State) : State := { s with ovr := false }

/-- raise E: end the command and record E in STATUS.ERR; nothing else changes (00_scope.md R10). -/
def State.raise (e : ErrCode) (s : State) : State := { s with err := e }

/-- A CMD write while BUSY = 1 is discarded: it changes nothing except OVR <- 1 (40_commands.md R66). -/
def State.discard (s : State) : State := { s with ovr := true }

/-- VALID <- 0, at the acceptance of any NEXT (10_state.md R28, 40_commands.md R63). -/
def State.clearValid (s : State) : State := { s with valid := false }

/-! ### The register window (20_memory.md R34, R35) -/

/-- What a window offset names (20_memory.md R35): a byte of a register file, or a byte of CMD or STATUS, or
nothing. -/
inductive Region where
  | keystg (k : Fin 32)
  | ivstg (k : Fin 8)
  | ctrstg (k : Fin 8)
  | cmd
  | status
  | out (k : Fin 64)
  | reserved
deriving DecidableEq, Repr

/-- The register map (20_memory.md R35). -/
def region (off : Offset) : Region :=
  if h : off.toNat < 0x20 then .keystg ⟨off.toNat, h⟩
  else if h : off.toNat < 0x28 then .ivstg ⟨off.toNat - 0x20, by omega⟩
  else if h : off.toNat < 0x30 then .ctrstg ⟨off.toNat - 0x28, by omega⟩
  else if off.toNat < 0x34 then .cmd
  else if off.toNat < 0x38 then .status
  else if off.toNat < 0x40 then .reserved
  else if h : off.toNat < 0x80 then .out ⟨off.toNat - 0x40, by omega⟩
  else .reserved

/-- CORE_BASE, a multiple of 0x100 (00_scope.md R7). -/
def coreBase (page : Nat) : Nat := 0x100 * page

/-- The window offset of a host address; none outside the 256-byte window, and such an access does not reach CORE
(20_memory.md R34, R45). The access's first byte decides (log entry 4). No alias of the window is decoded: R45 leaves
aliases to the platform (93_implementation_defined.md U12), and this is the model's choice (log entry 27). -/
def offsetOf (page addr : Nat) : Option Offset :=
  if coreBase page ≤ addr ∧ addr < coreBase page + 0x100 then some (BitVec.ofNat 8 (addr - coreBase page)) else none

/-- The byte a register file holds behind a window offset, whether or not a read shows it (a read of a staging byte
returns 0, `readByte`); none where the window has no stored byte. It is what the frames of Obligations.lean speak of. -/
def State.storedByte (s : State) (off : Offset) : Option Byte :=
  match region off with
  | .keystg k => some s.keystg[k]
  | .ivstg k => some s.ivstg[k]
  | .ctrstg k => some s.ctrstg[k]
  | .out k => some s.out[k]
  | .cmd => none
  | .status => none
  | .reserved => none

/-- STG[off] <- b, where STG = KEYSTG ++ IVSTG ++ CTRSTG (20_memory.md R43). Other offsets hold no staging byte. -/
def State.storeByte (off : Offset) (b : Byte) (s : State) : State :=
  match region off with
  | .keystg k => { s with keystg := s.keystg.set k b }
  | .ivstg k => { s with ivstg := s.ivstg.set k b }
  | .ctrstg k => { s with ctrstg := s.ctrstg.set k b }
  | .cmd => s
  | .status => s
  | .out _ => s
  | .reserved => s

/-- `for j in 0..3: STG[off + j] <- BYTE(v, j)` (20_memory.md R37, R43). -/
def State.storeWord (off : Offset) (v : Word) (s : State) : State :=
  (((s.storeByte off (byteOf v 0)).storeByte (off + 1) (byteOf v 1)).storeByte (off + 2) (byteOf v 2)).storeByte
    (off + 3) (byteOf v 3)

end Sys2Proof.Machine
end

