-- ==== Sys2Proof/Machine/Flags.lean ====
section
/-! DEFINITION. The status register as a word (10_state.md R25, 60_exceptions.md R87). -/

namespace Sys2Proof.Machine

/-- The code of STATUS.STATE (10_state.md R25). -/
def GenState.code : GenState → BitVec 2
  | .uninit => 0
  | .active => 1
  | .exhausted => 2

/-- The code of STATUS.ERR (60_exceptions.md R87). -/
def ErrCode.code : ErrCode → BitVec 3
  | .ok => 0
  | .invalidKeyLength => 1
  | .invalidIvLength => 2
  | .outputExhausted => 3
  | .illegalCommand => 4
  | .notActive => 5

/-- STATUS (10_state.md R25): [31:17] 0, [16] OVR, [15:11] 0, [10:8] ERR, [7:4] 0, [3] VALID, [2] BUSY, [1:0] STATE. -/
def State.statusWord (s : State) : Word :=
  (0 : BitVec 15) ++ BitVec.ofBool s.ovr ++ (0 : BitVec 5) ++ s.err.code ++ (0 : BitVec 4) ++ BitVec.ofBool s.valid ++
    BitVec.ofBool s.busy ++ s.gen.code

end Sys2Proof.Machine
end

