-- ==== Sys2Proof/Machine/Operands.lean ====
section
/-! DEFINITION. The operands of the commands: KLEN and VLEN (30_encoding.md R54) and the staging registers as words
(10_state.md R15, R17, 40_commands.md R62, R64). -/

namespace Sys2Proof.Machine

/-- "key buffer < 32 bytes" (40_commands.md R62). -/
def keyTooShort (klen : Nat) : Bool := decide (klen < 32)

/-- "IV buffer < 8 bytes" (40_commands.md R62). -/
def ivTooShort (vlen : Nat) : Bool := decide (vlen < 8)

/-- Key word i = LE32(KEYSTG[4i], KEYSTG[4i+1], KEYSTG[4i+2], KEYSTG[4i+3]) (10_state.md R15). -/
def State.stagedKey (s : State) : Vector Word 8 :=
  Vector.ofFn fun i => le32 s.keystg[4 * i.val] s.keystg[4 * i.val + 1] s.keystg[4 * i.val + 2] s.keystg[4 * i.val + 3]

/-- Nonce word i = LE32(IVSTG[4i], IVSTG[4i+1], IVSTG[4i+2], IVSTG[4i+3]) (10_state.md R17). -/
def State.stagedNonce (s : State) : Vector Word 2 :=
  Vector.ofFn fun i => le32 s.ivstg[4 * i.val] s.ivstg[4 * i.val + 1] s.ivstg[4 * i.val + 2] s.ivstg[4 * i.val + 3]

/-- The low word of the counter preload, CTRSTG[0..3] (40_commands.md R64). -/
def State.stagedCtrLo (s : State) : Word := le32 s.ctrstg[0] s.ctrstg[1] s.ctrstg[2] s.ctrstg[3]

/-- The high word of the counter preload, CTRSTG[4..7] (40_commands.md R64). -/
def State.stagedCtrHi (s : State) : Word := le32 s.ctrstg[4] s.ctrstg[5] s.ctrstg[6] s.ctrstg[7]

end Sys2Proof.Machine
end

