-- ==== Sys2Proof/Machine/Alu.lean ====
section
/-! DEFINITION. The quarter-round ALU (41_quarter_round.md R68 to R72). -/

namespace Sys2Proof.Machine

/-- ADD32: addition mod 2^32, the carry out discarded (41_quarter_round.md R68). -/
def add32 (x y : Word) : Word := x + y

/-- XOR32 (41_quarter_round.md R69). -/
def xor32 (x y : Word) : Word := x ^^^ y

/-- ROTL32: `((v << n) | (v >> (32 - n))) mod 2^32` (41_quarter_round.md R70). CORE uses n in 16, 12, 8, 7. -/
def rotl32 (v : Word) (n : Nat) : Word := (v <<< n) ||| (v >>> (32 - n))

/-- Four words a, b, c, d: what the ALU takes and returns (41_quarter_round.md R71). -/
structure QuadWords where
  a : Word
  b : Word
  c : Word
  d : Word
deriving DecidableEq, Repr

/-- One line pair of R71, `p <- p +32 q; r <- rotl32(r ^ p, n)`: the new p and the new r. -/
def addXorRotl (p q r : Word) (n : Nat) : Word × Word := (add32 p q, rotl32 (xor32 r (add32 p q)) n)

/-- QR, the eight steps of the quarter-round in their order (41_quarter_round.md R71). -/
def qr (w : QuadWords) : QuadWords :=
  let ad := addXorRotl w.a w.b w.d 16
  let cb := addXorRotl w.c ad.2 w.b 12
  let ad' := addXorRotl ad.1 cb.2 ad.2 8
  let cb' := addXorRotl cb.1 ad'.2 cb.2 7
  ⟨ad'.1, cb'.2, cb'.1, ad'.2⟩

/-- Four word indices into the 16-word buffer: one row of the schedule (30_encoding.md R58). -/
structure QuadIndex where
  a : Fin 16
  b : Fin 16
  c : Fin 16
  d : Fin 16
deriving DecidableEq, Repr

/-- The four words of a buffer that a row names. -/
def QuadIndex.read (r : QuadIndex) (x : Vector Word 16) : QuadWords := ⟨x[r.a], x[r.b], x[r.c], x[r.d]⟩

/-- Store four words at the row's indices, in the order a, b, c, d. -/
def QuadIndex.write (r : QuadIndex) (w : QuadWords) (x : Vector Word 16) : Vector Word 16 :=
  (((x.set r.a w.a).set r.b w.b).set r.c w.c).set r.d w.d

/-- QR_X: `(X[a], X[b], X[c], X[d]) <- QR(X[a], X[b], X[c], X[d])` (41_quarter_round.md R72). -/
def qrX (r : QuadIndex) (x : Vector Word 16) : Vector Word 16 := r.write (qr (r.read x)) x

/-- One of the source's in-place line pairs, `x[p] += x[q]; x[r] = rotl(x[r] ^ x[p], n)` (41_quarter_round.md R71). -/
def inPlaceLine (p q r : Fin 16) (n : Nat) (x : Vector Word 16) : Vector Word 16 :=
  let x := x.set p (add32 x[p] x[q])
  x.set r (rotl32 (xor32 x[r] x[p]) n)

/-- The source's in-place quarter-round over buffer indices (41_quarter_round.md R71, R72). -/
def qrInPlace (r : QuadIndex) (x : Vector Word 16) : Vector Word 16 :=
  inPlaceLine r.c r.d r.b 7 (inPlaceLine r.a r.b r.d 8 (inPlaceLine r.c r.d r.b 12 (inPlaceLine r.a r.b r.d 16 x)))

end Sys2Proof.Machine
end

