-- ==== Sys2Proof/Machine/Counter.lean ====
section
/-! DEFINITION. The block counter incrementer (43_counter.md R82, R84). -/

namespace Sys2Proof.Machine

/-- CounterIncrement: S[12] goes up by one, and S[13] too when the low word wrapped (43_counter.md R82). -/
def State.counterIncrement (s : State) : State :=
  let lo := add32 s.ctrLo 1
  { s with ctrLo := lo, ctrHi := if lo = 0 then add32 s.ctrHi 1 else s.ctrHi }

/-- WouldExhaust(C): both words are all ones, that is C = 2^64 - 1 (43_counter.md R84). -/
def State.wouldExhaust (s : State) : Bool := decide (s.ctrLo = 0xFFFFFFFF ∧ s.ctrHi = 0xFFFFFFFF)

/-- S with {S[13], S[12]} = c (42_round_sequencer.md R79). -/
def State.withCounter (c : DWord) (s : State) : State :=
  { s with ctrLo := c.extractLsb' 0 32, ctrHi := c.extractLsb' 32 32 }

end Sys2Proof.Machine
end

