-- ==== Sys2Proof/Machine/Sequencer.lean ====
section
/-! DEFINITION. The round sequencer: the schedule (30_encoding.md R58), the ROUND and FINAL steps, serialisation and
the block function (42_round_sequencer.md R74 to R79). -/

namespace Sys2Proof.Machine

/-- SCHED: the column rounds, then the diagonal rounds (30_encoding.md R58). -/
def schedule : Vector QuadIndex 8 :=
  #v[⟨0, 4, 8, 12⟩, ⟨1, 5, 9, 13⟩, ⟨2, 6, 10, 14⟩, ⟨3, 7, 11, 15⟩,
     ⟨0, 5, 10, 15⟩, ⟨1, 6, 11, 12⟩, ⟨2, 7, 8, 13⟩, ⟨3, 4, 9, 14⟩]

/-- SCHED[q mod 8] (30_encoding.md R58). -/
def schedRow (q : Nat) : QuadIndex := schedule[q % 8]'(Nat.mod_lt _ (by decide))

/-- The first `n` quarter-rounds of a block, in increasing q (30_encoding.md R58, 42_round_sequencer.md R79). -/
def quarterRoundsFrom (x : Vector Word 16) : Nat → Vector Word 16
  | 0 => x
  | n + 1 => qrX (schedRow n) (quarterRoundsFrom x n)

/-- Word-wise addition mod 2^32: Y[i] <- X[i] +32 S[i] (42_round_sequencer.md R77). -/
def feedForward (x s : Vector Word 16) : Vector Word 16 := Vector.ofFn fun i => add32 x[i] s[i]

/-- Block(S): the 80 quarter-rounds and the feed-forward (42_round_sequencer.md R79). -/
def block (s : Vector Word 16) : Vector Word 16 := feedForward (quarterRoundsFrom s Config.quarterRounds) s

/-- Serialize(Y)[4i + j] = BYTE(Y[i], j) (42_round_sequencer.md R78). -/
def serialize (y : Vector Word 16) : Vector Byte 64 := Vector.ofFn fun k => byteOf y[k.val / 4] (k.val % 4)

/-- ROUND_STEP (42_round_sequencer.md R74). After the step with q = 79, q is a free value (log entry 7). -/
def State.roundStep (s : State) : State :=
  let x := qrX (schedRow s.q.toNat) s.x
  if s.q = 79 then { s with x := x, phase := .final, q := Config.freeIndex s.draws, draws := s.draws + 1 }
  else { s with x := x, q := s.q + 1 }

/-- FINAL_STEP (42_round_sequencer.md R77): OUT from Y = X + S with the counter as it was, then the increment. -/
def State.finalStep (s : State) : State :=
  { s.counterIncrement with out := serialize (feedForward s.x s.S), valid := true, phase := .idle }

/-- The sequencer's step of one cycle; none while PHASE = IDLE (42_round_sequencer.md R80, 60_exceptions.md R100). -/
def State.sequencerStep (s : State) : State :=
  match s.phase with
  | .idle => s
  | .round => s.roundStep
  | .final => s.finalStep

/-- NEXT_atomic: a successful NEXT as one atomic step (40_commands.md R67). The step rule of this model is the
sequencer; this is the abstract reading it is compared with. -/
def State.nextAtomic (s : State) : State :=
  { s.counterIncrement with out := serialize (block s.S), valid := true, phase := .idle }

/-- The keystream block of this instance for counter value `c`: `Serialize(Block(S with {S[13], S[12]} = c))`
(42_round_sequencer.md R79). -/
def State.keystreamBlock (c : DWord) (s : State) : Vector Byte 64 := serialize (block (s.withCounter c).S)

end Sys2Proof.Machine
end

