-- ==== Sys2Proof/Machine/Commands.lean ====
section
/-! DEFINITION. The meanings of the commands in their acceptance cycle, after the acceptance step OVR <- 0
(40_commands.md R62 to R65; log entry 22). -/

namespace Sys2Proof.Machine

/-- What a successful INIT writes: the key, counter and nonce words of S, OUT, VALID, STATE and ERR
(40_commands.md R62). -/
def State.constructInstance (s : State) : State :=
  { s with
    key := s.stagedKey, ctrLo := 0, ctrHi := 0, nonce := s.stagedNonce, out := Vector.replicate 64 0,
    valid := false, gen := .active, err := .ok }

/-- INIT (40_commands.md R62): the key check first, then the IV check. -/
def execInit (klen vlen : Nat) (s : State) : Host.Outcome State Fault Refusal :=
  if keyTooShort klen then .next (s.raise .invalidKeyLength)
  else if ivTooShort vlen then .next (s.raise .invalidIvLength)
  else .next s.constructInstance

/-- The wrap of both counter words to zero, and STATE <- Exhausted (40_commands.md R63). -/
def State.exhaust (s : State) : State := { s with ctrLo := 0, ctrHi := 0, gen := .exhausted }

/-- The LOAD that starts a block: X <- S, q <- 0, PHASE <- ROUND, ERR <- OK (40_commands.md R63). -/
def State.startBlock (s : State) : State := { s with x := s.S, q := 0, phase := .round, err := .ok }

/-- NEXT in its acceptance cycle (40_commands.md R63). -/
def execNext (s : State) : Host.Outcome State Fault Refusal :=
  match s.gen with
  | .uninit => .next (s.clearValid.raise .notActive)
  | .exhausted => .next (s.clearValid.raise .outputExhausted)
  | .active =>
    if s.wouldExhaust then .next (s.clearValid.exhaust.raise .outputExhausted)
    else .next s.clearValid.startBlock

/-- What a successful SETCTR writes: C from CTRSTG, and ERR (40_commands.md R64). -/
def State.loadCounter (s : State) : State := { s with ctrLo := s.stagedCtrLo, ctrHi := s.stagedCtrHi, err := .ok }

/-- SETCTR (40_commands.md R64). -/
def execSetctr (s : State) : Host.Outcome State Fault Refusal :=
  if s.gen = .active then .next s.loadCounter else .next (s.raise .notActive)

/-- ILLEGAL: any accepted word that the decoder does not admit (40_commands.md R65). -/
def illegalCommand (s : State) : State := s.raise .illegalCommand

end Sys2Proof.Machine
end

