-- ==== Sys2Proof/Machine/Dispatch.lean ====
section
/-! DEFINITION. One arm per command (40_commands.md). -/

namespace Sys2Proof.Machine

def exec (i : Instr) (s : State) : Host.Outcome State Fault Refusal :=
  match i with
  | .init klen vlen => Sys2Proof.Machine.execInit klen vlen s
  | .next => Sys2Proof.Machine.execNext s
  | .setctr => Sys2Proof.Machine.execSetctr s

end Sys2Proof.Machine
end

