-- ==== Sys2Proof/Machine/Window.lean ====
section
/-! DEFINITION. The host's accesses to the register window (20_memory.md R38, R41 to R44). -/

namespace Sys2Proof.Machine

/-- Where an 8-bit access is admitted (20_memory.md R35, R38). -/
def byteAdmitted : Region → AccessKind → Bool
  | .keystg _, _ => true
  | .ivstg _, _ => true
  | .ctrstg _, _ => true
  | .out _, .read => true
  | .out _, .write => false
  | .cmd, _ => false
  | .status, _ => false
  | .reserved, _ => false

/-- Where a 4-aligned 32-bit access is admitted (20_memory.md R35, R38). -/
def wordAdmitted : Region → AccessKind → Bool
  | .keystg _, _ => true
  | .ivstg _, _ => true
  | .ctrstg _, _ => true
  | .cmd, _ => true
  | .status, .read => true
  | .status, .write => false
  | .out _, .read => true
  | .out _, .write => false
  | .reserved, _ => false

/-- admitted(off, n, kind): everything else raises BusError (20_memory.md R38; 90_conflicts.md C9, C10). -/
def admitted (off : Offset) (w : Width) (k : AccessKind) : Bool :=
  match w with
  | .byte => byteAdmitted (region off) k
  | .word => decide (off.toNat % 4 = 0) && wordAdmitted (region off) k
  | .other _ => false

/-- What an 8-bit read shows: OUT as it is, 0 in the write-only regions (20_memory.md R41, R42). -/
def State.readByte (off : Offset) (s : State) : Byte :=
  match region off with
  | .out k => s.out[k]
  | .keystg _ => 0
  | .ivstg _ => 0
  | .ctrstg _ => 0
  | .cmd => 0
  | .status => 0
  | .reserved => 0

/-- What a 32-bit read shows: STATUS, four bytes of OUT little-endian, 0 in the write-only regions
(20_memory.md R37, R41, R42). -/
def State.readWord (off : Offset) (s : State) : Word :=
  match region off with
  | .status => s.statusWord
  | .cmd => 0
  | .keystg _ => 0
  | .ivstg _ => 0
  | .ctrstg _ => 0
  | .reserved => 0
  | .out _ => le32 (s.readByte off) (s.readByte (off + 1)) (s.readByte (off + 2)) (s.readByte (off + 3))

/-- HostRead(off, n) (20_memory.md R41). It changes nothing but the answer the host sees (20_memory.md R40). -/
def hostRead (off : Offset) (w : Width) (s : State) : Host.Outcome State Fault Refusal :=
  if admitted off w .read then
    match w with
    | .byte => .next { s with response := .data8 (s.readByte off) }
    | .word => .next { s with response := .data32 (s.readWord off) }
    | .other _ => .fault .busError
  else .fault .busError

/-- Command(v) (20_memory.md R44, in the order of 60_exceptions.md R91): discarded while BUSY = 1, else accepted,
decoded and performed. -/
def commandWrite (v : Word) (s : State) : Host.Outcome State Fault Refusal :=
  if s.busy then .next s.discard
  else
    match decode v with
    | .command i => exec i s.accept
    | .illegal _ => .next (illegalCommand s.accept)

/-- An admitted write was performed: the answer the host sees. -/
def writeDone : Host.Outcome State Fault Refusal → Host.Outcome State Fault Refusal
  | .next s => .next { s with response := .done }
  | .fault f => .fault f
  | .refused r => .refused r

/-- HostWrite(off, n, v) (20_memory.md R43). -/
def hostWrite (off : Offset) (w : Width) (v : Word) (s : State) : Host.Outcome State Fault Refusal :=
  if admitted off w .write then
    match region off, w with
    | .cmd, _ => writeDone (commandWrite v s)
    | _, .byte => writeDone (.next (s.storeByte off (byteOf v 0)))
    | _, .word => writeDone (.next (s.storeWord off v))
    | _, .other _ => .fault .busError
  else .fault .busError

/-- One host access: nothing when its address is outside the window (20_memory.md R45), else a read or a write of the
window; a fault is the access's, not the machine's (60_exceptions.md R90). -/
def hostAccess (a : Access) (s : State) : Host.Outcome State Fault Refusal :=
  match offsetOf s.page a.addr with
  | none => .next { s with response := .none }
  | some off =>
    match a.kind with
    | .read => hostRead off a.width s
    | .write => hostWrite off a.width a.data s

/-! ### The assembler's names for accesses at a window offset (30_encoding.md R60) -/

/-- `rd8 OFF`. -/
def Access.rd8 (page off : Nat) : Access := ⟨.read, .byte, coreBase page + off, 0⟩

/-- `rd32 OFF`. -/
def Access.rd32 (page off : Nat) : Access := ⟨.read, .word, coreBase page + off, 0⟩

/-- `wr8 OFF, VAL`. -/
def Access.wr8 (page off : Nat) (v : Byte) : Access := ⟨.write, .byte, coreBase page + off, v.setWidth 32⟩

/-- `wr32 OFF, VAL`. -/
def Access.wr32 (page off : Nat) (v : Word) : Access := ⟨.write, .word, coreBase page + off, v⟩

/-- The command word `v` written to CMD: `wr32 0x30, v`. -/
def Access.cmd (page : Nat) (v : Word) : Access := Access.wr32 page 0x30 v

end Sys2Proof.Machine
end

