-- ==== Sys2Proof/Machine/Cycle.lean ====
section
/-! DEFINITION. One core clock cycle: reset, or at most one host access beside at most one sequencer step
(70_reset_and_hazards.md R101, R104). -/

namespace Sys2Proof.Machine

/-- A cycle in which the outside world does nothing. -/
def CycleInput.idle : CycleInput := ⟨false, none⟩

/-- A cycle with one access and no reset. -/
def CycleInput.ofAccess (a : Access) : CycleInput := ⟨false, some a⟩

/-- The present cycle's input; with none pending the world does nothing (log entry 1). -/
def State.nextInput (s : State) : CycleInput :=
  match s.inputs with
  | [] => .idle
  | inp :: _ => inp

/-- The answer to an access in a reset cycle: a read returns a free value (70_reset_and_hazards.md R101; log
entry 9). -/
def State.resetResponse (a : Option Access) (s : State) : Response :=
  match a with
  | none => .none
  | some a =>
    match offsetOf s.page a.addr, a.kind, a.width with
    | none, _, _ => .none
    | some _, .read, .byte => .data8 (byteOf (Config.freeWord s.draws 16) 0)
    | some _, .read, .word => .data32 (Config.freeWord s.draws 16)
    | some _, .read, .other _ => .masked
    | some _, .write, _ => .masked

/-- A cycle with RST asserted: every register takes its value of 10_state.md R33, X and q free values (log entry 6);
the access has no effect and no sequencer step runs (70_reset_and_hazards.md R101). -/
def State.resetCycle (a : Option Access) (s : State) : State :=
  { State.reset with
    x := Vector.ofFn fun i => Config.freeWord s.draws i.val
    q := Config.freeIndex s.draws
    page := s.page
    inputs := s.inputs
    response := s.resetResponse a
    draws := s.draws + 1 }

/-- The host's side of a cycle, on the state at its start: no access, or one. A fault of the access is its answer and
leaves CORE as it was (60_exceptions.md R90; log entry 2). -/
def hostSide (a : Option Access) (s : State) : Host.Outcome State Fault Refusal :=
  match a with
  | none => .next { s with response := .none }
  | some a =>
    match hostAccess a s with
    | .next h => .next h
    | .fault f => .next { s with response := .fault f }
    | .refused r => .refused r

/-- Both sides' writes land together (70_reset_and_hazards.md R104): `h` is the state the host's side alone would
leave. While PHASE ≠ IDLE the host can write only staging bytes and OVR (and the answer it sees); while PHASE = IDLE no
sequencer step runs. -/
def State.land (s h : State) : State :=
  if s.busy then
    { s.sequencerStep with
      keystg := h.keystg, ivstg := h.ivstg, ctrstg := h.ctrstg, ovr := h.ovr, response := h.response }
  else h

/-- The cycle is over: its input is consumed. -/
def State.consumeInput (s : State) : State := { s with inputs := s.inputs.tail }

/-- One core clock cycle (70_reset_and_hazards.md R101, R104). -/
def cycle (s : State) : Host.Outcome State Fault Refusal :=
  if s.nextInput.rst then .next (s.resetCycle s.nextInput.access).consumeInput
  else
    match hostSide s.nextInput.access s with
    | .next h => .next (s.land h).consumeInput
    | .fault f => .fault f
    | .refused r => .refused r

/-- The state in which the very next cycle accepts the command word `v`: BUSY = 0, and the next input is the write of
`v` to CMD (log entry 23). -/
def State.withCommand (s : State) (v : Word) : State :=
  { s with phase := .idle, inputs := .ofAccess (.cmd s.page v) :: s.inputs }

end Sys2Proof.Machine
end

