-- ==== Sys2Proof/Machine/HostProgram.lean ====
section
/-! DEFINITION. The assembler's commands and pseudo-instructions (30_encoding.md R54, R60, R61): those whose accesses are
known beforehand as lists of bus transactions, and those that use what a read returned as functions of the host, which
runs beside CORE. They are what a host does; CORE sees only the accesses. -/

namespace Sys2Proof.Machine.HostProgram

/-- A buffer length as the host writes it: min(length, 255) (30_encoding.md R54). -/
def saturate (len : Nat) : Nat := min len 255

/-- `cmd.init KLEN, VLEN`: `wr32 0x30, (VLEN << 16) | (KLEN << 8) | 0x1` (30_encoding.md R60). The spec bounds no numeral:
for KLEN or VLEN above 255 the model takes the shifts to the letter and keeps the low 32 bits (DESIGN CHOICE, log
entry 28). -/
def cmdInit (page klen vlen : Nat) : Access :=
  .cmd page (BitVec.ofNat 32 ((vlen <<< 16) ||| (klen <<< 8) ||| 0x1))

/-- `cmd.next` (30_encoding.md R60). -/
def cmdNext (page : Nat) : Access := .cmd page (encode .next)

/-- `cmd.setctr` (30_encoding.md R60). -/
def cmdSetctr (page : Nat) : Access := .cmd page (encode .setctr)

/-- `ldkey K`: eight word writes (30_encoding.md R61). -/
def ldkey (page : Nat) (k : Vector Byte 32) : List Access :=
  List.ofFn fun i : Fin 8 =>
    .wr32 page (4 * i.val) (le32 k[4 * i.val] k[4 * i.val + 1] k[4 * i.val + 2] k[4 * i.val + 3])

/-- `ldiv V`: two word writes (30_encoding.md R61). -/
def ldiv (page : Nat) (v : Vector Byte 8) : List Access :=
  [.wr32 page 0x20 (le32 v[0] v[1] v[2] v[3]), .wr32 page 0x24 (le32 v[4] v[5] v[6] v[7])]

/-- `ldctr C`: the low word, then the high word (30_encoding.md R61). -/
def ldctr (page : Nat) (c : DWord) : List Access :=
  [.wr32 page 0x28 (c.extractLsb' 0 32), .wr32 page 0x2C (c.extractLsb' 32 32)]

/-- `construct K, V` with the source's buffer lengths (30_encoding.md R61). -/
def construct (page : Nat) (k : Vector Byte 32) (v : Vector Byte 8) (klen vlen : Nat) : List Access :=
  ldkey page k ++ ldiv page v ++ [cmdInit page (saturate klen) (saturate vlen)]

/-- `rdblock`: sixteen word reads of OUT (30_encoding.md R61). -/
def rdblock (page : Nat) : List Access := List.ofFn fun i : Fin 16 => .rd32 page (0x40 + 4 * i.val)

/-! ### The host beside CORE: each access in the very next cycle, whose RST is the pending input's (log entry 25) -/

/-- The host issues one access in the present cycle. -/
def issue (a : Access) (s : State) : Host.Outcome State Fault Refusal :=
  cycle { s with inputs := ⟨s.nextInput.rst, some a⟩ :: s.inputs.tail }

/-- `rd32 OFF -> NAME`: the word read and the state after the read; none when the read returned no word
(30_encoding.md R60). -/
def rd32 (off : Nat) (s : State) : Option (Word × State) :=
  match issue (.rd32 s.page off) s with
  | .next t =>
    match t.response with
    | .data32 v => some (v, t)
    | .none => none
    | .data8 _ => none
    | .done => none
    | .fault _ => none
    | .masked => none
  | .fault _ => none
  | .refused _ => none

/-- When `poll` stops: st[2] = 0 (30_encoding.md R61). -/
def pollDone (st : Word) : Bool := !st.getLsbD 2

/-- `poll`: repeat `rd32 0x34 -> st` until st[2] = 0; the last st and the state after its read (30_encoding.md R61). None
when it has not ended after `n` reads (log entry 25). -/
def poll : Nat → State → Option (Word × State)
  | 0, _ => none
  | n + 1, s =>
    match rd32 0x34 s with
    | none => none
    | some (st, t) => if pollDone st then some (st, t) else poll n t

/-- Word reads at these offsets, and the words they returned, in order. -/
def gather : List Nat → State → Option (List Word × State)
  | [], s => some ([], s)
  | off :: offs, s =>
    match rd32 off s with
    | none => none
    | some (v, t) =>
      match gather offs t with
      | none => none
      | some (vs, u) => some (v :: vs, u)

/-- `rdblock -> W`: `rd32 0x40+4i -> W[i]` for i = 0..15 (30_encoding.md R61). -/
def rdblockInto (s : State) : Option (List Word × State) := gather (List.ofFn fun i : Fin 16 => 0x40 + 4 * i.val) s

/-- `next -> W`: `cmd.next`, `poll`, `rdblock -> W` (30_encoding.md R61); none when the poll has not ended after `n`
reads. -/
def next (n : Nat) (s : State) : Option (List Word × State) :=
  match issue (cmdNext s.page) s with
  | .next t =>
    match poll n t with
    | none => none
    | some (_, u) => rdblockInto u
  | .fault _ => none
  | .refused _ => none

/-- The host learns ERR, STATUS's bits 10 to 8, by reading STATUS after `construct` or `next` (30_encoding.md R61,
60_exceptions.md R88). -/
def learnErr (s : State) : Option (BitVec 3 × State) :=
  match rd32 0x34 s with
  | none => none
  | some (st, t) => some (st.extractLsb' 8 3, t)

/-- Byte k of the block W is BYTE(W[k div 4], k mod 4) (30_encoding.md R61). -/
def blockByte (w : List Word) (k : Nat) : Byte := byteOf (w.getD (k / 4) 0) (k % 4)

/-- One access per cycle, back to back. -/
def backToBack (as : List Access) : List CycleInput := as.map .ofAccess

end Sys2Proof.Machine.HostProgram
end

