-- ==== Sys2Proof/Machine/Step.lean ====
section
/-! DEFINITION. One step of the machine is one core clock cycle (00_scope.md R11, 70_reset_and_hazards.md R104). -/

namespace Sys2Proof.Machine

/-- One step: one core clock cycle. -/
def step (s : State) : Host.Outcome State Fault Refusal := cycle s

/-- `s` about to run the command whose word is `w` (bit 0 the least significant; the bits from `nbits` up are zero).
CORE fetches nothing: its commands come from the host, so this sets BUSY = 0 and the next cycle's input to the write of
the word to CMD (log entry 23). -/
def State.withFetchWord (s : State) (nbits w : Nat) : State := s.withCommand (BitVec.ofNat 32 (w % 2 ^ nbits))

end Sys2Proof.Machine
end

