-- ==== Sys2Proof/Safety.lean ====
section
/-! DEFINITION. What counts as a safe state and a safe run, and the events of a cycle in the terms the claims use. -/

namespace Sys2Proof.Machine

/-! ### The rounds of a block -/

/-- A double round: the column round, then the diagonal round (42_round_sequencer.md R75). -/
def doubleRound (y : Vector Word 16) : Vector Word 16 :=
  let column := qrX ⟨3, 7, 11, 15⟩ (qrX ⟨2, 6, 10, 14⟩ (qrX ⟨1, 5, 9, 13⟩ (qrX ⟨0, 4, 8, 12⟩ y)))
  qrX ⟨3, 4, 9, 14⟩ (qrX ⟨2, 7, 8, 13⟩ (qrX ⟨1, 6, 11, 12⟩ (qrX ⟨0, 5, 10, 15⟩ column)))

/-! ### The events of a cycle -/

/-- The word an access writes to CMD: a 32-bit write at offset 0x30 (20_memory.md R43, 30_encoding.md R53). -/
def cmdWordOf (page : Nat) (a : Option Access) : Option Word :=
  match a with
  | some ⟨.write, .word, addr, v⟩ => if offsetOf page addr = some 0x30 then some v else none
  | _ => none

/-- The word the present cycle's host access writes to CMD, in a cycle without reset (70_reset_and_hazards.md R101). -/
def State.cmdWrite (s : State) : Option Word :=
  if s.nextInput.rst then none else cmdWordOf s.page s.nextInput.access

/-- What the present cycle's accepted command decodes to; none when no command is accepted (20_memory.md R44). -/
def State.accepted (s : State) : Option Decoded := if s.busy then none else s.cmdWrite.map decode

/-- The present cycle's command is discarded: a CMD write while BUSY = 1 (40_commands.md R66). -/
def State.discards (s : State) : Prop := s.busy = true ∧ s.cmdWrite ≠ none

/-- The byte an access stores at the staging offset `off`, if it stores one there (20_memory.md R37, R43). -/
def stagedBy (page : Nat) (a : Option Access) (off : Offset) : Option Byte :=
  match a with
  | some ⟨.write, .byte, addr, v⟩ => if offsetOf page addr = some off then some (v.extractLsb' 0 8) else none
  | some ⟨.write, .word, addr, v⟩ =>
    match offsetOf page addr with
    | some o =>
      if o.toNat % 4 = 0 ∧ o.toNat ≤ off.toNat ∧ off.toNat < o.toNat + 4 then
        some (v.extractLsb' (8 * (off.toNat - o.toNat)) 8)
      else none
    | none => none
  | _ => none

/-- The present cycle accepts a NEXT that starts a block (40_commands.md R63). -/
def State.startsBlock (s : State) : Prop :=
  s.accepted = some (.command .next) ∧ s.gen = .active ∧ s.counter ≠ 0xFFFFFFFFFFFFFFFF

/-- A successful INIT: both lengths suffice (40_commands.md R62). -/
def successfulInit : Decoded → Bool
  | .command (.init klen vlen) => decide (32 ≤ klen) && decide (8 ≤ vlen)
  | .command .next => false
  | .command .setctr => false
  | .illegal _ => false

/-- The result code of an accepted command, by the table of 60_exceptions.md R87. -/
def State.resultCode (s : State) : Decoded → ErrCode
  | .command (.init klen vlen) =>
    if klen < 32 then .invalidKeyLength else if vlen < 8 then .invalidIvLength else .ok
  | .command .next =>
    if s.gen = .uninit then .notActive
    else if s.gen = .exhausted ∨ s.counter = 0xFFFFFFFFFFFFFFFF then .outputExhausted
    else .ok
  | .command .setctr => if s.gen = .active then .ok else .notActive
  | .illegal _ => .illegalCommand

/-! ### Safe states -/

/-- What every state of a run from reset satisfies. -/
structure State.Inv (s : State) : Prop where
  /-- While PHASE = ROUND, q is in 0..79 (10_state.md R31, 42_round_sequencer.md R74). -/
  indexInRange : s.phase = .round → s.q.toNat ≤ 79
  /-- While PHASE = ROUND, X is S mixed by the first q quarter-rounds (42_round_sequencer.md R76, R79). -/
  mixing : s.phase = .round → s.x = quarterRoundsFrom s.S s.q.toNat
  /-- While PHASE = FINAL, X is S mixed by all 80 quarter-rounds (42_round_sequencer.md R76, R79). -/
  mixed : s.phase = .final → s.x = quarterRoundsFrom s.S 80
  /-- A block runs only for an Active instance whose counter is not 2^64 - 1, with VALID = 0 and ERR = OK
  (40_commands.md R63, 43_counter.md R83). -/
  running : s.busy = true → s.gen = .active ∧ s.counter ≠ 0xFFFFFFFFFFFFFFFF ∧ s.valid = false ∧ s.err = .ok
  /-- Before the first INIT, S and OUT are as reset left them (10_state.md R26, R33). -/
  untouched : s.gen = .uninit →
    s.key = Vector.replicate 8 0 ∧ s.counter = 0 ∧ s.nonce = Vector.replicate 2 0 ∧ s.out = Vector.replicate 64 0
  /-- An exhausted instance's counter is 0 (40_commands.md R63, R64). -/
  exhausted : s.gen = .exhausted → s.counter = 0
  /-- OUT is 64 zero bytes or a keystream block of this instance, never the one for counter 2^64 - 1
  (10_state.md R21, 40_commands.md R63). -/
  outOwn : s.out = Vector.replicate 64 0 ∨ ∃ c, c ≠ 0xFFFFFFFFFFFFFFFF ∧ s.out = s.keystreamBlock c
  /-- VALID = 1 only for an Active instance whose OUT holds one of its blocks (10_state.md R25, R28). -/
  validBlock : s.valid = true →
    s.gen = .active ∧ ∃ c, c ≠ 0xFFFFFFFFFFFFFFFF ∧ s.out = s.keystreamBlock c

/-- `n` core clock cycles, stopping at the first fault or refusal: the run of `Sys2Proof.core` (`core_run_eq`). -/
def runCycles : Nat → State → Host.Outcome State Fault Refusal
  | 0, s => .next s
  | n + 1, s =>
    match step s with
    | .next t => runCycles n t
    | .fault f => .fault f
    | .refused r => .refused r

/-- A safe run of `n` steps: it stops at no fault and no refusal, and ends in a state with the invariant. -/
def SafeRun (n : Nat) (s : State) : Prop := ∃ t : State, runCycles n s = .next t ∧ t.Inv

end Sys2Proof.Machine
end

