-- ==== Sys2Proof/Certificates/Slice0/Obligations.lean ====
section
/-! DEFINITION. The statements for the provers. Each docstring names the rules of spec/ it formalises. `2^64 - 1` is
written 0xFFFFFFFFFFFFFFFF. A statement whose conclusion is `exec i s = .next t` says where the command completes; its
record update is its frame. `storedByte` is the model's read of one byte of the window's register files. -/

open Sys2Proof Sys2Proof.Machine

/-! ### The command word -/

/-- 30_encoding.md R53, R54, R55: encoding a well-formed command and decoding the word gives the command back. -/
def Obligations.DecodeOfEncode : Prop := ∀ i : Instr, i.WellFormed = true → decode (encode i) = .command i

/-- 30_encoding.md R53, R54, R55: a word that decodes to a command is that command's word, and the command is
well-formed. -/
def Obligations.EncodeOfDecode : Prop :=
  ∀ (w : Word) (i : Instr), decode w = .command i → i.WellFormed = true ∧ encode i = w

/-- 30_encoding.md R55: the match and mask pairs, the field form of INIT's row, ILLEGAL otherwise, no overlap. -/
def Obligations.DecodeFollowsTable : Prop :=
  ∀ w : Word,
    (w &&& 0xFF0000FF = 0x00000001 →
      decode w = .command (.init (w.extractLsb' 8 8).toNat (w.extractLsb' 16 8).toNat)) ∧
    (w = 0x00000002 → decode w = .command .next) ∧
    (w = 0x00000003 → decode w = .command .setctr) ∧
    (w &&& 0xFF0000FF ≠ 0x00000001 → w ≠ 0x00000002 → w ≠ 0x00000003 → ∃ why, decode w = .illegal why) ∧
    (w &&& 0xFF0000FF = 0x00000001 ↔
      w.extractLsb' 0 4 = 0x1#4 ∧ w.extractLsb' 4 4 = 0#4 ∧ w.extractLsb' 24 8 = 0#8) ∧
    ¬ (w &&& 0xFF0000FF = 0x00000001 ∧ (w = 0x00000002 ∨ w = 0x00000003)) ∧
    ¬ (w = 0x00000002 ∧ w = 0x00000003)

/-- 30_encoding.md R56, 40_commands.md R65: exactly which words are illegal, and what an accepted one does: ERR =
ILLEGAL_COMMAND, OVR cleared by acceptance, nothing else. -/
def Obligations.IllegalWordEffect : Prop :=
  ∀ w : Word,
    ((∃ why, decode w = .illegal why) ↔
      w.extractLsb' 0 4 = 0#4 ∨ 4 ≤ (w.extractLsb' 0 4).toNat ∨ w.extractLsb' 4 4 ≠ 0#4 ∨ w.extractLsb' 24 8 ≠ 0#8 ∨
      ((w.extractLsb' 0 4 = 2#4 ∨ w.extractLsb' 0 4 = 3#4) ∧ (w.extractLsb' 8 8 ≠ 0#8 ∨ w.extractLsb' 16 8 ≠ 0#8))) ∧
    ∀ (s : State) (why : IllegalWord), decode w = .illegal why → s.busy = false →
      commandWrite w s = .next { s with ovr := false, err := .illegalCommand }

/-- 95_test_vectors.md V-DEC, 30_encoding.md R55: words written out from the encoding decode to what they stand for. -/
def Obligations.SpecWordsDecode : Prop :=
  decode 0x00082001 = .command (.init 32 8) ∧ decode 0x00FFFF01 = .command (.init 255 255) ∧
  decode 0x00081F01 = .command (.init 31 8) ∧ decode 0x00072001 = .command (.init 32 7) ∧
  decode 0x00000001 = .command (.init 0 0) ∧ decode 0x00000002 = .command .next ∧
  decode 0x00000003 = .command .setctr ∧ (∃ why, decode 0x00000000 = .illegal why) ∧
  (∃ why, decode 0xFFFFFF01 = .illegal why) ∧ (∃ why, decode 0x00082011 = .illegal why) ∧
  (∃ why, decode 0x00000102 = .illegal why) ∧ (∃ why, decode 0x00010002 = .illegal why)

/-! ### A step -/

/-- 20_memory.md R43, R44: when the present cycle writes the word of a command to CMD and BUSY = 0, the step is exec of
the decoded command after OVR <- 0; the cycle's input is consumed and the write is answered `done`. An illegal word
raises ILLEGAL_COMMAND in the same way (40_commands.md R65). -/
def Obligations.StepRunsDecodedCommand : Prop :=
  ∀ (s : State) (w : Word) (rest : List CycleInput),
    s.inputs = .ofAccess (.cmd s.page w) :: rest → s.busy = false →
    (∀ (i : Instr) (t : State), decode w = .command i → exec i { s with ovr := false } = .next t →
      step s = .next { t with inputs := rest, response := .done }) ∧
    (∀ why : IllegalWord, decode w = .illegal why →
      step s = .next { s with ovr := false, err := .illegalCommand, inputs := rest, response := .done })

/-- The model's own (log entry 23): the step from `withFetchWord` runs exactly the table word's command. -/
def Obligations.StepRunsFetchedWord : Prop :=
  ∀ (s t : State) (nbits w : Nat) (i : Instr), decodeTableWord nbits w = some i →
    exec i { s with phase := .idle, ovr := false } = .next t →
    step (s.withFetchWord nbits w) = .next { t with inputs := s.inputs, response := .done }

/-- 60_exceptions.md R90, R93, R100: no input stops CORE: every step of every state answers a next state. That the
machine goes on after a bus error is the model's choice (log entry 2). -/
def Obligations.StepAlwaysAnswersNext : Prop := ∀ s : State, ∃ t, step s = .next t

/-- 10_state.md R31, 40_commands.md R63, 42_round_sequencer.md R76, 43_counter.md R83: every run of any length from a
state with the invariant ends in a state with the invariant. That no run stops at a fault, a bus error among its inputs
or not, is the model's choice: the machine goes on after a bus error (log entry 2). -/
def Obligations.RunsAreSafe : Prop := ∀ (n : Nat) (s : State), s.Inv → SafeRun n s

/-! ### The commands -/

/-- 40_commands.md R62: INIT's encoding, its two errors in their order, and what a successful INIT writes; every other
register keeps its value. -/
def Obligations.InitResult : Prop :=
  (∀ (w : Word) (s : State), s.busy = false → w &&& 0xFF0000FF = 0x00000001 →
    commandWrite w s =
      exec (.init (w.extractLsb' 8 8).toNat (w.extractLsb' 16 8).toNat) { s with ovr := false }) ∧
  ∀ (klen vlen : Nat) (s : State),
    (klen < 32 → exec (.init klen vlen) s = .next { s with err := .invalidKeyLength }) ∧
    (32 ≤ klen → vlen < 8 → exec (.init klen vlen) s = .next { s with err := .invalidIvLength }) ∧
    (32 ≤ klen → 8 ≤ vlen →
      exec (.init klen vlen) s = .next { s with
        key := Vector.ofFn fun i =>
          le32 s.keystg[4 * i.val] s.keystg[4 * i.val + 1] s.keystg[4 * i.val + 2] s.keystg[4 * i.val + 3]
        ctrLo := 0
        ctrHi := 0
        nonce := Vector.ofFn fun i =>
          le32 s.ivstg[4 * i.val] s.ivstg[4 * i.val + 1] s.ivstg[4 * i.val + 2] s.ivstg[4 * i.val + 3]
        out := Vector.ofFn fun _ => 0
        valid := false
        gen := .active
        err := .ok })

/-- 40_commands.md R63, 43_counter.md R84, R86: NEXT's encoding and its four outcomes at acceptance; every other
register keeps its value. -/
def Obligations.NextResult : Prop :=
  (∀ s : State, s.busy = false → commandWrite 0x00000002 s = exec .next { s with ovr := false }) ∧
  ∀ s : State,
    (s.gen = .uninit → exec .next s = .next { s with valid := false, err := .notActive }) ∧
    (s.gen = .exhausted → exec .next s = .next { s with valid := false, err := .outputExhausted }) ∧
    (s.gen = .active → s.counter = 0xFFFFFFFFFFFFFFFF →
      exec .next s = .next
        { s with valid := false, ctrLo := 0, ctrHi := 0, gen := .exhausted, err := .outputExhausted }) ∧
    (s.gen = .active → s.counter ≠ 0xFFFFFFFFFFFFFFFF →
      exec .next s = .next { s with valid := false, x := s.S, q := 0, phase := .round, err := .ok })

/-- 40_commands.md R64: SETCTR's encoding, its error, and the counter words it loads from CTRSTG; every other register
keeps its value. -/
def Obligations.SetctrResult : Prop :=
  (∀ s : State, s.busy = false → commandWrite 0x00000003 s = exec .setctr { s with ovr := false }) ∧
  ∀ s : State,
    (s.gen ≠ .active → exec .setctr s = .next { s with err := .notActive }) ∧
    (s.gen = .active →
      exec .setctr s = .next { s with
        ctrLo := le32 s.ctrstg[0] s.ctrstg[1] s.ctrstg[2] s.ctrstg[3]
        ctrHi := le32 s.ctrstg[4] s.ctrstg[5] s.ctrstg[6] s.ctrstg[7]
        err := .ok })

/-- 30_encoding.md R61, 40_commands.md R62: the pseudo-instruction `construct K, V`, for buffers of sufficient lengths
(saturated by R54), run back to back from an idle CORE: eleven cycles, after which the
instance is that of K and V with counter 0; nothing else changes. -/
def Obligations.ConstructBuildsInstance : Prop :=
  ∀ (s : State) (k : Vector Byte 32) (v : Vector Byte 8) (klen vlen : Nat) (rest : List CycleInput),
    s.inputs = HostProgram.backToBack (HostProgram.construct s.page k v klen vlen) ++ rest → s.phase = .idle →
    32 ≤ klen → 8 ≤ vlen →
    runCycles 11 s = .next { s with
      key := Vector.ofFn fun i => le32 k[4 * i.val] k[4 * i.val + 1] k[4 * i.val + 2] k[4 * i.val + 3]
      ctrLo := 0
      ctrHi := 0
      nonce := Vector.ofFn fun i => le32 v[4 * i.val] v[4 * i.val + 1] v[4 * i.val + 2] v[4 * i.val + 3]
      out := Vector.ofFn fun _ => 0
      keystg := k
      ivstg := v
      valid := false
      gen := .active
      err := .ok
      ovr := false
      inputs := rest
      response := .done }

/-- 30_encoding.md R61, 40_commands.md R64: `ldctr C` and then `cmd.setctr`, in Active and idle: three cycles, after
which the counter is C; nothing else changes but CTRSTG, ERR and OVR. -/
def Obligations.PreloadLoadsCounter : Prop :=
  ∀ (s : State) (c : DWord) (rest : List CycleInput),
    s.inputs = HostProgram.backToBack (HostProgram.ldctr s.page c ++ [HostProgram.cmdSetctr s.page]) ++ rest →
    s.phase = .idle → s.gen = .active →
    runCycles 3 s = .next { s with
      ctrLo := c.extractLsb' 0 32
      ctrHi := c.extractLsb' 32 32
      ctrstg := Vector.ofFn fun j => c.extractLsb' (8 * j.val) 8
      err := .ok
      ovr := false
      inputs := rest
      response := .done }

/-- 40_commands.md R66: a CMD write while BUSY = 1 changes nothing except OVR <- 1, whatever its value, and the running
block continues: the step is the sequencer's step with OVR set. -/
def Obligations.BusyCommandDiscarded : Prop :=
  ∀ (s : State) (w : Word), s.busy = true →
    commandWrite w s = .next { s with ovr := true } ∧
    ∀ rest : List CycleInput, s.inputs = .ofAccess (.cmd s.page w) :: rest →
      step s = .next { s.sequencerStep with ovr := true, inputs := rest, response := .done }

/-- 40_commands.md R62 to R64, 10_state.md R14, R21, R23: what the commands leave unchanged. No command writes a staging
byte; INIT leaves X, PHASE and q; NEXT leaves OUT, the key and the nonce; SETCTR leaves all but the counter and ERR. -/
def Obligations.CommandFrames : Prop :=
  ∀ (i : Instr) (s t : State), exec i s = .next t →
    (∀ off : Offset, off.toNat < 0x40 → t.storedByte off = s.storedByte off) ∧
    (∀ k : Fin 4, t.S[k.val] = s.S[k.val]) ∧ t.ovr = s.ovr ∧
    ((∃ klen vlen, i = .init klen vlen) →
      t.x = s.x ∧ t.phase = s.phase ∧ t.q = s.q ∧
      ((∀ off : Offset, t.storedByte off = s.storedByte off) ∨
        ∀ off : Offset, 0x40 ≤ off.toNat → off.toNat < 0x80 → t.storedByte off = some 0)) ∧
    (i = .next → t.key = s.key ∧ t.nonce = s.nonce ∧ ∀ off : Offset, t.storedByte off = s.storedByte off) ∧
    (i = .setctr → t.key = s.key ∧ t.nonce = s.nonce ∧ t.x = s.x ∧ t.gen = s.gen ∧ t.valid = s.valid ∧
      t.phase = s.phase ∧ t.q = s.q ∧ ∀ off : Offset, t.storedByte off = s.storedByte off)

/-- 60_exceptions.md R89: in Exhausted every NEXT fails with OUTPUT_EXHAUSTED and every SETCTR with NOT_ACTIVE, with S,
OUT and STATE unchanged; and no step but a reset or an accepted successful INIT leaves Exhausted or changes S or OUT. -/
def Obligations.ExhaustedIsTerminal : Prop :=
  ∀ s : State, s.gen = .exhausted →
    exec .next s = .next { s with valid := false, err := .outputExhausted } ∧
    exec .setctr s = .next { s with err := .notActive } ∧
    ∀ t : State, s.phase = .idle → step s = .next t →
      s.nextInput.rst = true ∨ s.accepted.any successfulInit = true ∨
      (t.gen = .exhausted ∧ t.S = s.S ∧ t.out = s.out)

/-! ### The quarter-round ALU -/

/-- 41_quarter_round.md R68, R69: addition is mod 2^32 with the carry discarded; exclusive-or is bit by bit; the corner
cases. -/
def Obligations.AddWrapsXorIsBitwise : Prop :=
  (∀ x y : Word, (add32 x y).toNat = (x.toNat + y.toNat) % 2 ^ 32) ∧
  add32 0xFFFFFFFF 1 = 0 ∧ add32 0x80000000 0x80000000 = 0 ∧
  (∀ (x y : Word) (i : Nat), (xor32 x y).getLsbD i = ((x.getLsbD i) ^^ (y.getLsbD i))) ∧
  ∀ x : Word, xor32 x x = 0 ∧ xor32 x 0 = x

/-- 41_quarter_round.md R70, 00_scope.md R9: for 1 <= n <= 31, bit i of v becomes bit (i + n) mod 32 of the result. -/
def Obligations.RotationMovesBits : Prop :=
  ∀ (v : Word) (n i : Nat), 1 ≤ n → n ≤ 31 → i < 32 → (rotl32 v n).getLsbD ((i + n) % 32) = v.getLsbD i

/-- 41_quarter_round.md R71: the eight steps in their order, and the rule's worked examples. -/
def Obligations.QuarterRoundSteps : Prop :=
  (∀ a b c d : Word,
    qr ⟨a, b, c, d⟩ =
      (let a := a + b
       let d := (d ^^^ a).rotateLeft 16
       let c := c + d
       let b := (b ^^^ c).rotateLeft 12
       let a := a + b
       let d := (d ^^^ a).rotateLeft 8
       let c := c + d
       let b := (b ^^^ c).rotateLeft 7
       ⟨a, b, c, d⟩)) ∧
  qr ⟨0, 0, 0, 0⟩ = ⟨0, 0, 0, 0⟩ ∧
  qr ⟨0xFFFFFFFF, 0xFFFFFFFF, 0xFFFFFFFF, 0xFFFFFFFF⟩ = ⟨0xf0000ffd, 0x88790878, 0x0110fdef, 0x010ffdf0⟩ ∧
  qr ⟨0x11111111, 0x01020304, 0x9b8d6f43, 0x01234567⟩ = ⟨0xea2a92f4, 0xcb1cf8ce, 0x4581472e, 0x5881c4bb⟩

/-- 41_quarter_round.md R72: a row of the schedule names four distinct words; QR_X replaces them by QR of them, leaves the
other twelve, and is the source's in-place sequence; the rule's example. -/
def Obligations.QuarterRoundOnBuffer : Prop :=
  (∀ (n : Nat) (x : Vector Word 16),
    [(schedRow n).a, (schedRow n).b, (schedRow n).c, (schedRow n).d].Nodup ∧
    (schedRow n).read (qrX (schedRow n) x) = qr ((schedRow n).read x) ∧
    (∀ k : Fin 16, k ≠ (schedRow n).a → k ≠ (schedRow n).b → k ≠ (schedRow n).c → k ≠ (schedRow n).d →
      (qrX (schedRow n) x)[k] = x[k]) ∧
    qrX (schedRow n) x = qrInPlace (schedRow n) x) ∧
  qrX ⟨0, 4, 8, 12⟩
      #v[0x61707865, 0x3320646e, 0x79622d32, 0x6b206574, 0, 0, 0, 0, 0, 0, 0, 0, 0, 0, 0, 0] =
    #v[0xb7877feb, 0x3320646e, 0x79622d32, 0x6b206574, 0x4a7d5c86, 0, 0, 0, 0x5a83fd3f, 0, 0, 0, 0xe21e9bcf, 0, 0, 0]

/-- 41_quarter_round.md R73: QR is a bijection on four-word tuples. -/
def Obligations.QuarterRoundBijective : Prop := Function.Bijective qr

/-! ### The round sequencer -/

/-- 30_encoding.md R58: the schedule's eight rows, for every q; round r = q div 4 is a column round when r is even. -/
def Obligations.ScheduleRows : Prop :=
  (∀ k : Nat,
    schedRow (8 * k) = ⟨0, 4, 8, 12⟩ ∧ schedRow (8 * k + 1) = ⟨1, 5, 9, 13⟩ ∧
    schedRow (8 * k + 2) = ⟨2, 6, 10, 14⟩ ∧ schedRow (8 * k + 3) = ⟨3, 7, 11, 15⟩ ∧
    schedRow (8 * k + 4) = ⟨0, 5, 10, 15⟩ ∧ schedRow (8 * k + 5) = ⟨1, 6, 11, 12⟩ ∧
    schedRow (8 * k + 6) = ⟨2, 7, 8, 13⟩ ∧ schedRow (8 * k + 7) = ⟨3, 4, 9, 14⟩) ∧
  ∀ q : Nat, (q / 4 % 2 = 0 ↔ q % 8 < 4)

/-- 30_encoding.md R59: inside a row the indices are distinct; the four rows of a round cover 0..15 once each; the
result of a round does not depend on the order of its four quarter-rounds. -/
def Obligations.RoundOrderIrrelevant : Prop :=
  (∀ n : Nat, [(schedRow n).a, (schedRow n).b, (schedRow n).c, (schedRow n).d].Nodup) ∧
  (∀ r : Nat,
    ((List.range' (4 * r) 4).flatMap fun n => [(schedRow n).a, (schedRow n).b, (schedRow n).c, (schedRow n).d]).Perm
      (List.finRange 16)) ∧
  ∀ (r : Nat) (l : List Nat) (x : Vector Word 16), l.Perm (List.range' (4 * r) 4) →
    l.foldl (fun y n => qrX (schedRow n) y) x = (List.range' (4 * r) 4).foldl (fun y n => qrX (schedRow n) y) x

/-- 42_round_sequencer.md R75, R79: the first 8k quarter-rounds are k double rounds, each a column round and then a
diagonal round; a block is ten double rounds and the feed-forward. -/
def Obligations.TenDoubleRounds : Prop :=
  (∀ (x : Vector Word 16) (k : Nat), quarterRoundsFrom x (8 * k) = doubleRound^[k] x) ∧
  ∀ (s : Vector Word 16) (i : Fin 16), (block s)[i] = (doubleRound^[10] s)[i] + s[i]

/-- 42_round_sequencer.md R74: the ROUND step of a cycle with no access: QR_X at row q mod 8, q + 1, and PHASE <- FINAL
at q = 79, after which q is a free value; nothing else changes. -/
def Obligations.RoundStepEffect : Prop :=
  ∀ s : State, s.phase = .round → s.q.toNat ≤ 79 → s.nextInput = ⟨false, none⟩ →
    ∃ t, step s = .next t ∧
      t.x = qrX (schedRow (s.q.toNat % 8)) s.x ∧
      (s.q.toNat < 79 → t.phase = .round ∧ t.q.toNat = s.q.toNat + 1) ∧
      (s.q.toNat = 79 → t.phase = .final) ∧ t.busy = true ∧
      t = { s with
        x := t.x, phase := t.phase, q := t.q, draws := t.draws, inputs := s.inputs.tail, response := .none }

/-- 42_round_sequencer.md R77: the FINAL step of a cycle with no access: OUT, the counter, VALID and PHASE, with Y from
the counter as it was; nothing else changes. At C = 2^64 - 1, which FinalDoesNotWrap rules out at FINAL, the increment
wraps to 0: the model's choice, by R82's pseudocode taken to the letter (log entry 24). -/
def Obligations.FinalStepEffect : Prop :=
  ∀ s : State, s.phase = .final → s.nextInput = ⟨false, none⟩ →
    ∃ t, step s = .next t ∧
      (∀ (i : Fin 16) (j : Fin 4),
        t.out[4 * i.val + j.val] = (s.x[i.val] + s.S[i.val]).extractLsb' (8 * j.val) 8) ∧
      t.counter = s.counter + 1 ∧ t.valid = true ∧ t.busy = false ∧
      t = { s with
        out := t.out, ctrLo := t.ctrLo, ctrHi := t.ctrHi, valid := true, phase := .idle,
        inputs := s.inputs.tail, response := .none }

/-- 42_round_sequencer.md R78: words in order 0..15, each least significant byte first; the four bytes of a word make it
up again (20_memory.md R37). -/
def Obligations.SerializeBytes : Prop :=
  ∀ (y : Vector Word 16) (i : Fin 16),
    (∀ j : Fin 4, (serialize y)[4 * i.val + j.val] = y[i.val].extractLsb' (8 * j.val) 8) ∧
    le32 (serialize y)[4 * i.val] (serialize y)[4 * i.val + 1] (serialize y)[4 * i.val + 2]
      (serialize y)[4 * i.val + 3] = y[i.val]

/-- 40_commands.md R63, R67, 42_round_sequencer.md R76, R80, R81, 70_reset_and_hazards.md R110: a NEXT accepted in Active
with C other than 2^64 - 1 ends after exactly 81 further cycles without reset, whatever accesses the host makes in them,
with OUT = Serialize(Block(S)), C + 1, VALID = 1 and BUSY = 0: the effect of NEXT_atomic. The 81 is the reference
sequencer's, which the model chose (log entry 12). -/
def Obligations.NextRunsToItsBlock : Prop :=
  ∀ (s : State) (during rest : List CycleInput),
    s.inputs = .ofAccess (.cmd s.page 0x00000002) :: (during ++ rest) → during.length = 81 →
    (∀ c ∈ during, c.rst = false) → s.phase = .idle → s.gen = .active → s.counter ≠ 0xFFFFFFFFFFFFFFFF →
    ∃ t : State, runCycles 82 s = .next t ∧
      t.out = s.nextAtomic.out ∧ t.out = serialize (block s.S) ∧ t.counter = s.counter + 1 ∧ t.valid = true ∧
      t.busy = false ∧ t.gen = .active ∧ t.err = .ok ∧ t.key = s.key ∧ t.nonce = s.nonce ∧ t.page = s.page ∧
      t.inputs = rest

/-- 10_state.md R21, R27, 20_memory.md R49, 42_round_sequencer.md R76, 70_reset_and_hazards.md R105, R110: in each of the
81 cycles after such a NEXT's acceptance BUSY = 1 and VALID = 0, and S and OUT are what they were before it. The 81 is
the reference sequencer's (log entry 12). -/
def Obligations.BusyKeepsStateAndOut : Prop :=
  ∀ (s : State) (during rest : List CycleInput) (k : Nat),
    s.inputs = .ofAccess (.cmd s.page 0x00000002) :: (during ++ rest) → during.length = 81 →
    (∀ c ∈ during, c.rst = false) → s.phase = .idle → s.gen = .active → s.counter ≠ 0xFFFFFFFFFFFFFFFF →
    1 ≤ k → k ≤ 81 →
    ∃ u : State, runCycles k s = .next u ∧ u.busy = true ∧ u.valid = false ∧ u.out = s.out ∧ u.S = s.S

/-- 30_encoding.md R61, 10_state.md R27, R28, 42_round_sequencer.md R77, R80, 43_counter.md R82, 70_reset_and_hazards.md
R110: `poll` reads STATUS until BUSY reads 0, without reset: one read when CORE is idle, two in a FINAL cycle, 82 - q in
the ROUND step q; with fewer reads it has not ended. It answers the STATUS it saw last, and after a block CORE is idle
with VALID = 1 and C + 1. The counts are the reference sequencer's, with a read in every cycle (log entries 12 and 25).
At C = 2^64 - 1 and PHASE = FINAL or ROUND, which no run reaches, the wrap to 0 is the model's choice (log entry 24). -/
def Obligations.PollReadsUntilIdle : Prop :=
  ∀ (s : State) (n : Nat), (∀ c ∈ s.inputs, c.rst = false) →
    (s.phase = .idle → 1 ≤ n →
      HostProgram.poll n s =
        some (s.statusWord, { s with inputs := s.inputs.tail, response := .data32 s.statusWord })) ∧
    ∀ left : Nat,
      ((s.phase = .final ∧ left = 2) ∨ (s.phase = .round ∧ s.q.toNat ≤ 79 ∧ left = 82 - s.q.toNat)) →
      (n < left → HostProgram.poll n s = none) ∧
      (left ≤ n → ∃ t, HostProgram.poll n s = some (t.statusWord, t) ∧ t.busy = false ∧ t.valid = true ∧
        t.statusWord.getLsbD 2 = false ∧ t.gen = s.gen ∧ t.err = s.err ∧ t.ovr = s.ovr ∧ t.key = s.key ∧
        t.nonce = s.nonce ∧ t.counter = s.counter + 1 ∧ t.inputs = s.inputs.drop left)

/-- 30_encoding.md R61, 10_state.md R28, R29, R30, 40_commands.md R63, 42_round_sequencer.md R77, R78, R79, 43_counter.md
R82: `next -> W` in an idle Active CORE with C other
than 2^64 - 1, without reset, whatever the number of reads `poll` is given from 82 up: W is the sixteen words of Block(S),
the bytes of W are those of OUT, and the counter is C + 1. The 82 is the reference sequencer's, with a read in every cycle
(log entries 12 and 25). -/
def Obligations.NextGathersItsBlock : Prop :=
  ∀ (s : State) (n : Nat), (∀ c ∈ s.inputs, c.rst = false) → s.phase = .idle → s.gen = .active →
    s.counter ≠ 0xFFFFFFFFFFFFFFFF → 82 ≤ n →
    ∃ (w : List Word) (t : State), HostProgram.next n s = some (w, t) ∧
      w = List.ofFn (fun i : Fin 16 => (block s.S)[i]) ∧ (∀ k : Fin 64, t.out[k] = HostProgram.blockByte w k.val) ∧
      t.counter = s.counter + 1 ∧ t.valid = true ∧ t.busy = false ∧ t.gen = .active ∧ t.err = .ok ∧ t.ovr = false ∧
      t.key = s.key ∧ t.nonce = s.nonce

/-- 43_counter.md R85, 42_round_sequencer.md R79, R81: `n` NEXTs, each given its 81 further cycles, from Active with
counter C and C + n at most 2^64 - 1: all succeed, the counter ends at C + n, and OUT holds the block for counter
C + n - 1; the key and the nonce are unchanged. The 81 is the reference sequencer's (log entry 12). -/
def Obligations.CounterSequence : Prop :=
  ∀ (n : Nat) (s : State) (rest : List CycleInput),
    s.inputs = (List.replicate n (.ofAccess (.cmd s.page 0x00000002) :: List.replicate 81 ⟨false, none⟩)).flatten ++ rest →
    s.phase = .idle → s.gen = .active → s.counter.toNat + n ≤ 2 ^ 64 - 1 →
    ∃ t : State, runCycles (82 * n) s = .next t ∧
      t.counter.toNat = s.counter.toNat + n ∧ t.gen = .active ∧ t.busy = false ∧ t.key = s.key ∧ t.nonce = s.nonce ∧
      t.inputs = rest ∧
      (0 < n →
        t.out = s.keystreamBlock (BitVec.ofNat 64 (s.counter.toNat + n - 1)) ∧ t.valid = true ∧ t.err = .ok)

/-! ### The block counter -/

/-- 43_counter.md R82: the two-word increment with its carry, and it is the 64-bit +1; nothing else changes. -/
def Obligations.CounterIncrementCarries : Prop :=
  ∀ s : State,
    s.counterIncrement.ctrLo = s.ctrLo + 1 ∧
    (s.ctrLo = 0xFFFFFFFF → s.counterIncrement.ctrLo = 0 ∧ s.counterIncrement.ctrHi = s.ctrHi + 1) ∧
    (s.ctrLo ≠ 0xFFFFFFFF → s.counterIncrement.ctrHi = s.ctrHi) ∧
    s.counterIncrement.counter = s.counter + 1 ∧
    s.counterIncrement = { s with ctrLo := s.counterIncrement.ctrLo, ctrHi := s.counterIncrement.ctrHi }

/-- 43_counter.md R84: WouldExhaust is C = 2^64 - 1, and that is exactly when the increment makes both words zero. -/
def Obligations.WouldExhaustIsLastCounter : Prop :=
  ∀ s : State,
    (s.wouldExhaust = true ↔ s.counter = 0xFFFFFFFFFFFFFFFF) ∧
    (s.wouldExhaust = true ↔ s.counterIncrement.ctrLo = 0 ∧ s.counterIncrement.ctrHi = 0)

/-- 43_counter.md R83: from a state with the invariant, the FINAL step maps C in 0..2^64 - 2 to C + 1, without
wrapping. -/
def Obligations.FinalDoesNotWrap : Prop :=
  ∀ s : State, s.Inv → s.phase = .final → s.nextInput.rst = false →
    s.counter.toNat ≤ 2 ^ 64 - 2 ∧ ∃ t, step s = .next t ∧ t.counter.toNat = s.counter.toNat + 1

/-! ### The whole machine -/

/-- 10_state.md R33: the reset state has the invariant. -/
def Obligations.ResetMeetsInvariant : Prop := State.reset.Inv

/-- The invariant `State.Inv` (Safety.lean) is kept by every step (10_state.md R31, 40_commands.md R63,
42_round_sequencer.md R76, 43_counter.md R83). -/
def Obligations.StepKeepsInvariant : Prop := ∀ s t : State, s.Inv → step s = .next t → t.Inv

/-- 10_state.md R26: every transition of STATE and its cause; no other event changes STATE. -/
def Obligations.StateTransitions : Prop :=
  ∀ s t : State, step s = .next t →
    t.gen =
      if s.nextInput.rst = true then .uninit
      else if s.accepted.any successfulInit = true then .active
      else if s.accepted = some (.command .next) ∧ s.gen = .active ∧ s.counter = 0xFFFFFFFFFFFFFFFF then .exhausted
      else s.gen

/-- 10_state.md R21: OUT is written by the FINAL step, by a successful INIT and by reset, in full; every other event
leaves it unchanged. -/
def Obligations.OutWriters : Prop :=
  ∀ s t : State, step s = .next t →
    t.out =
      if s.nextInput.rst = true then Vector.replicate 64 0
      else if s.phase = .final then serialize (feedForward s.x s.S)
      else if s.accepted.any successfulInit = true then Vector.replicate 64 0
      else s.out

/-- 10_state.md R15, R16, R17 (and R33 for reset): every write to the key words, the nonce words and the counter. At
C = 2^64 - 1 and PHASE = FINAL, which no run reaches, the wrap is the model's choice (log entry 24). -/
def Obligations.InstanceWriters : Prop :=
  ∀ s t : State, step s = .next t →
    (t.key =
      if s.nextInput.rst = true then Vector.replicate 8 0
      else if s.accepted.any successfulInit = true then s.stagedKey else s.key) ∧
    (t.nonce =
      if s.nextInput.rst = true then Vector.replicate 2 0
      else if s.accepted.any successfulInit = true then s.stagedNonce else s.nonce) ∧
    (t.counter =
      if s.nextInput.rst = true then 0
      else if s.phase = .final then s.counter + 1
      else if s.accepted.any successfulInit = true then 0
      else if s.accepted = some (.command .next) ∧ s.gen = .active ∧ s.counter = 0xFFFFFFFFFFFFFFFF then 0
      else if s.accepted = some (.command .setctr) ∧ s.gen = .active then s.stagedCtrHi ++ s.stagedCtrLo
      else s.counter)

/-- 10_state.md R28: every write to VALID. -/
def Obligations.ValidWriters : Prop :=
  ∀ s t : State, step s = .next t →
    t.valid =
      if s.nextInput.rst = true then false
      else if s.phase = .final then true
      else if s.accepted = some (.command .next) then false
      else if s.accepted.any successfulInit = true then false
      else s.valid

/-- 10_state.md R31, R19 (and R33 for reset): every write to PHASE and X, and the writes to q: the LOAD of a NEXT that
starts a block, the ROUND steps, the FINAL step. For q in 80..127 at PHASE = ROUND, which no run reaches and R32 rules
out, the row q mod 8 and the step to q + 1 mod 128 are the model's choice (log entry 24). -/
def Obligations.SequencerWriters : Prop :=
  ∀ s t : State, step s = .next t →
    (s.nextInput.rst = true → t.phase = .idle) ∧
    (s.nextInput.rst = false →
      (s.phase = .round → t.phase = (if s.q = 79 then .final else .round) ∧ (s.q ≠ 79 → t.q = s.q + 1) ∧
        t.x = qrX (schedRow (s.q.toNat % 8)) s.x) ∧
      (s.phase = .final → t.phase = .idle ∧ t.x = s.x) ∧
      (s.startsBlock → t.phase = .round ∧ t.q = 0 ∧ t.x = s.S) ∧
      (s.phase = .idle → ¬ s.startsBlock → t.phase = .idle ∧ t.x = s.x))

/-- 10_state.md R23, 20_memory.md R43: a staging byte holds the last value the host wrote to it: after a step it is 0 if
RST was asserted, else the byte the cycle's access stored there, else what it was; no command changes it. -/
def Obligations.StagingWriters : Prop :=
  ∀ (s t : State) (off : Offset), step s = .next t → off.toNat < 0x30 →
    t.storedByte off =
      if s.nextInput.rst = true then some 0 else (stagedBy s.page s.nextInput.access off).or (s.storedByte off)

/-- 10_state.md R29, R30, 60_exceptions.md R87: ERR is the result code of the accepted command and OVR is set by a
discarded and cleared by an accepted one; nothing but reset writes them otherwise. -/
def Obligations.ErrAndOvrWriters : Prop :=
  ∀ s t : State, step s = .next t →
    (s.nextInput.rst = true → t.err = .ok ∧ t.ovr = false) ∧
    (s.nextInput.rst = false →
      (∀ d, s.accepted = some d → t.err = s.resultCode d ∧ t.ovr = false) ∧
      (s.accepted = none → t.err = s.err) ∧
      (s.discards → t.ovr = true) ∧
      (s.cmdWrite = none → t.ovr = s.ovr))

/-- 10_state.md R25, R27, 60_exceptions.md R87: the fields of STATUS with the literal codes of STATE and ERR, its reserved
bits 0, BUSY = (PHASE ≠ IDLE), STATE never 3, ERR at most 5. -/
def Obligations.StatusFields : Prop :=
  ∀ s : State,
    ((s.gen = .uninit ↔ s.statusWord.extractLsb' 0 2 = 0#2) ∧ (s.gen = .active ↔ s.statusWord.extractLsb' 0 2 = 1#2) ∧
      (s.gen = .exhausted ↔ s.statusWord.extractLsb' 0 2 = 2#2) ∧ s.statusWord.extractLsb' 0 2 ≠ 3#2) ∧
    (s.statusWord.getLsbD 2 = true ↔ s.phase ≠ .idle) ∧
    s.statusWord.getLsbD 3 = s.valid ∧ s.statusWord.extractLsb' 4 4 = 0#4 ∧
    ((s.err = .ok ↔ s.statusWord.extractLsb' 8 3 = 0#3) ∧
      (s.err = .invalidKeyLength ↔ s.statusWord.extractLsb' 8 3 = 1#3) ∧
      (s.err = .invalidIvLength ↔ s.statusWord.extractLsb' 8 3 = 2#3) ∧
      (s.err = .outputExhausted ↔ s.statusWord.extractLsb' 8 3 = 3#3) ∧
      (s.err = .illegalCommand ↔ s.statusWord.extractLsb' 8 3 = 4#3) ∧
      (s.err = .notActive ↔ s.statusWord.extractLsb' 8 3 = 5#3) ∧ (s.statusWord.extractLsb' 8 3).toNat ≤ 5) ∧
    s.statusWord.extractLsb' 11 5 = 0#5 ∧ s.statusWord.getLsbD 16 = s.ovr ∧ s.statusWord.extractLsb' 17 15 = 0#15

/-- 10_state.md R14: S[0..3] are the four little-endian words of "expand 32-byte k", in every state. -/
def Obligations.ConstantsHardwired : Prop :=
  ∀ s : State,
    s.S[0] = 0x61707865 ∧ s.S[1] = 0x3320646e ∧ s.S[2] = 0x79622d32 ∧ s.S[3] = 0x6b206574 ∧
    ∀ k : Fin 4,
      s.S[k.val] =
        le32 (BitVec.ofNat 8 ("expand 32-byte k".toList.getD (4 * k.val) ' ').toNat)
          (BitVec.ofNat 8 ("expand 32-byte k".toList.getD (4 * k.val + 1) ' ').toNat)
          (BitVec.ofNat 8 ("expand 32-byte k".toList.getD (4 * k.val + 2) ' ').toNat)
          (BitVec.ofNat 8 ("expand 32-byte k".toList.getD (4 * k.val + 3) ' ').toNat)

/-- 10_state.md R33: what reset leaves, for every register the rule gives a value (not X and q, which it does not). -/
def Obligations.ResetValues : Prop :=
  State.reset.S =
    #v[0x61707865, 0x3320646e, 0x79622d32, 0x6b206574, 0, 0, 0, 0, 0, 0, 0, 0, 0, 0, 0, 0] ∧
  (∀ off : Offset, (off.toNat < 0x30 ∨ (0x40 ≤ off.toNat ∧ off.toNat < 0x80)) →
    State.reset.storedByte off = some 0) ∧
  State.reset.statusWord = 0x00000000 ∧ State.reset.gen = .uninit ∧ State.reset.busy = false ∧
  State.reset.valid = false ∧ State.reset.err = .ok ∧ State.reset.ovr = false ∧ State.reset.phase = .idle

/-- 70_reset_and_hazards.md R101: in a cycle with RST asserted every register takes its value of R33, whatever access
falls in the cycle and whatever the sequencer was doing; X and q stay unconstrained. -/
def Obligations.ResetCycleEffect : Prop :=
  ∀ s : State, s.nextInput.rst = true →
    ∃ t, step s = .next t ∧
      t = { State.reset with
        x := t.x, q := t.q, page := s.page, inputs := s.inputs.tail, response := t.response, draws := t.draws } ∧
      (∀ off : Offset, (off.toNat < 0x30 ∨ (0x40 ≤ off.toNat ∧ off.toNat < 0x80)) → t.storedByte off = some 0) ∧
      t.statusWord = 0x00000000

/-- 60_exceptions.md R100: with PHASE = IDLE, no access and no reset, CORE's state does not change. -/
def Obligations.IdleCoreKeepsState : Prop :=
  ∀ s : State, s.phase = .idle → s.nextInput = ⟨false, none⟩ →
    step s = .next { s with inputs := s.inputs.tail, response := .none }

/-! ### The register window -/

/-- 20_memory.md R38: an access that reaches the window is a bus error exactly in the rule's five cases; every other one
is performed. A bus error leaves CORE as it was; the answer it records is the model's own field (log entry 2). -/
def Obligations.BusErrorCases : Prop :=
  ∀ (a : Access) (s : State) (off : Offset), offsetOf s.page a.addr = some off →
    (hostAccess a s = .fault .busError ↔
      (∃ n, a.width = .other n) ∨
      (a.width = .word ∧ off.toNat % 4 ≠ 0) ∨
      (a.width = .byte ∧ 0x30 ≤ off.toNat ∧ off.toNat ≤ 0x37) ∨
      (a.kind = .write ∧
        ((0x34 ≤ off.toNat ∧ off.toNat ≤ 0x37) ∨ (0x40 ≤ off.toNat ∧ off.toNat ≤ 0x7F))) ∨
      ((0x38 ≤ off.toNat ∧ off.toNat ≤ 0x3F) ∨ 0x80 ≤ off.toNat)) ∧
    (hostAccess a s = .fault .busError ∨ ∃ t, hostAccess a s = .next t) ∧
    (hostAccess a s = .fault .busError → hostSide (some a) s = .next { s with response := .fault .busError })

/-- 60_exceptions.md R90: a cycle whose access is a bus error leaves CORE exactly as the same cycle without the access
does; only the answer differs, and it is a fault, not data. That the machine goes on is log entry 2. -/
def Obligations.BusErrorHasNoEffect : Prop :=
  ∀ (s t : State) (a : Access) (rest : List CycleInput) (f : Fault),
    s.inputs = .ofAccess a :: rest → hostAccess a s = .fault f →
    step { s with inputs := ⟨false, none⟩ :: rest } = .next t →
    step s = .next { t with response := .fault f }

/-- 20_memory.md R45: an access outside the 256-byte window does not reach CORE: the cycle is as without it. That this
takes in a wide access that begins below the window and ends in it is the model's choice, since the first byte decides
(log entry 4); so is that no address outside the window is an alias of it (log entry 27). -/
def Obligations.OutsideWindowHasNoEffect : Prop :=
  ∀ (s : State) (a : Access) (rest : List CycleInput),
    s.inputs = .ofAccess a :: rest → (a.addr < coreBase s.page ∨ coreBase s.page + 0x100 ≤ a.addr) →
    step s = step { s with inputs := ⟨false, none⟩ :: rest }

/-- 20_memory.md R42: every admitted read of KEYSTG, IVSTG, CTRSTG (byte or word) or CMD (word) returns 0 and has no
effect. -/
def Obligations.WriteOnlyReadsZero : Prop :=
  ∀ (off : Offset) (s : State),
    (off.toNat < 0x30 → hostRead off .byte s = .next { s with response := .data8 0 }) ∧
    (off.toNat < 0x30 → off.toNat % 4 = 0 → hostRead off .word s = .next { s with response := .data32 0 }) ∧
    (off = 0x30 → hostRead off .word s = .next { s with response := .data32 0 })

/-- 20_memory.md R36, R37, R41: a read of STATUS, of a byte of OUT, and of an aligned word of OUT (little-endian); a read
changes nothing but the answer. -/
def Obligations.StatusAndOutReads : Prop :=
  ∀ s : State,
    hostRead 0x34 .word s = .next { s with response := .data32 s.statusWord } ∧
    (∀ k : Fin 64, hostRead (BitVec.ofNat 8 (0x40 + k.val)) .byte s = .next { s with response := .data8 s.out[k.val] }) ∧
    (∀ i : Fin 16,
      hostRead (BitVec.ofNat 8 (0x40 + 4 * i.val)) .word s = .next { s with
        response := .data32 (le32 s.out[4 * i.val] s.out[4 * i.val + 1] s.out[4 * i.val + 2] s.out[4 * i.val + 3]) }) ∧
    ∀ (y : Vector Word 16) (i : Fin 16), s.out = serialize y →
      hostRead (BitVec.ofNat 8 (0x40 + 4 * i.val)) .word s = .next { s with response := .data32 y[i.val] }

/-- 20_memory.md R37: a word write of v at a 4-aligned staging offset o stores BYTE(v, j) at o + j, and no other byte
changes; at KEYSTG offset 4i it makes key word i equal to v. A word read of OUT is LE32 of its four bytes. -/
def Obligations.WordAccessLittleEndian : Prop :=
  (∀ (off : Offset) (v : Word) (s : State), off.toNat < 0x30 → off.toNat % 4 = 0 →
    ∃ t, hostWrite off .word v s = .next t ∧
      (∀ j : Fin 4, t.storedByte (off + BitVec.ofNat 8 j.val) = some (v.extractLsb' (8 * j.val) 8)) ∧
      (∀ o : Offset, (o.toNat < off.toNat ∨ off.toNat + 4 ≤ o.toNat) → t.storedByte o = s.storedByte o) ∧
      t = { s with keystg := t.keystg, ivstg := t.ivstg, ctrstg := t.ctrstg, response := .done } ∧
      (∀ i : Fin 8, off.toNat = 4 * i.val → t.stagedKey[i.val] = v)) ∧
  ∀ (off : Offset) (s : State) (b0 b1 b2 b3 : Byte), 0x40 ≤ off.toNat → off.toNat < 0x80 → off.toNat % 4 = 0 →
    s.storedByte off = some b0 → s.storedByte (off + 1) = some b1 → s.storedByte (off + 2) = some b2 →
    s.storedByte (off + 3) = some b3 →
    hostRead off .word s = .next { s with response := .data32 (b3 ++ b2 ++ b1 ++ b0) }

/-- 20_memory.md R43: a byte write to a staging offset stores its byte there, and no other byte changes; nothing else
does either. -/
def Obligations.ByteWriteEffect : Prop :=
  ∀ (off : Offset) (v : Word) (s : State), off.toNat < 0x30 →
    ∃ t, hostWrite off .byte v s = .next t ∧
      t.storedByte off = some (v.extractLsb' 0 8) ∧
      (∀ o : Offset, o ≠ off → t.storedByte o = s.storedByte o) ∧
      t = { s with keystg := t.keystg, ivstg := t.ivstg, ctrstg := t.ctrstg, response := .done }

/-- 10_state.md R18, 20_memory.md R42, 60_exceptions.md R95: two states that agree on OUT, STATUS's fields, PHASE and the
input answer the cycle's access alike: no answer depends on S, X or the staging registers. -/
def Obligations.AnswersHideSecrets : Prop :=
  ∀ s s' t t' : State,
    s.page = s'.page → s.inputs = s'.inputs → s.nextInput.rst = false → s.out = s'.out → s.gen = s'.gen →
    s.valid = s'.valid → s.err = s'.err → s.ovr = s'.ovr → s.phase = s'.phase →
    step s = .next t → step s' = .next t' → t.response = t'.response

/-- 70_reset_and_hazards.md R104: while PHASE is not IDLE the host's side writes only staging bytes, OVR and the answer,
the sequencer only X, q, PHASE, OUT, the counter and VALID (and the model's draw count); so landing both together is the
sequencer's step after the host's. -/
def Obligations.SidesLandTogether : Prop :=
  ∀ s h : State, s.busy = true → hostSide s.nextInput.access s = .next h →
    h = { s with
      keystg := h.keystg, ivstg := h.ivstg, ctrstg := h.ctrstg, ovr := h.ovr, response := h.response } ∧
    s.sequencerStep = { s with
      x := s.sequencerStep.x, q := s.sequencerStep.q, phase := s.sequencerStep.phase, out := s.sequencerStep.out,
      ctrLo := s.sequencerStep.ctrLo, ctrHi := s.sequencerStep.ctrHi, valid := s.sequencerStep.valid,
      draws := s.sequencerStep.draws } ∧
    s.land h = h.sequencerStep

/-- 20_memory.md R39, R41, 70_reset_and_hazards.md R104: an access of the FINAL cycle reads the state at the start of the
cycle: STATUS with BUSY = 1 and the old VALID, and the old block's word. -/
def Obligations.FinalCycleReadsOldState : Prop :=
  ∀ (s : State) (rest : List CycleInput), s.phase = .final →
    (s.inputs = .ofAccess (.rd32 s.page 0x34) :: rest →
      ∃ t, step s = .next t ∧ t.response = .data32 s.statusWord ∧ s.statusWord.getLsbD 2 = true ∧
        s.statusWord.getLsbD 3 = s.valid ∧ t.valid = true ∧ t.busy = false) ∧
    (∀ i : Fin 16, s.inputs = .ofAccess (.rd32 s.page (0x40 + 4 * i.val)) :: rest →
      ∃ t, step s = .next t ∧
        t.response =
          .data32 (le32 s.out[4 * i.val] s.out[4 * i.val + 1] s.out[4 * i.val + 2] s.out[4 * i.val + 3]) ∧
        t.out = serialize (feedForward s.x s.S))
end

