-- ==== Sys2Proof/Laws/Alu.lean ====
section
/-! SUPPORT. The working buffer's rows: reading and writing four words at distinct indices (41_quarter_round.md R72). -/

namespace Sys2Proof.Machine

/-- The four indices of a row. -/
def QuadIndex.indices (r : QuadIndex) : List (Fin 16) := [r.a, r.b, r.c, r.d]

/-- What a buffer holds after a row's four words are written (the indices distinct). -/
theorem QuadIndex.getElem_write (r : QuadIndex) (w : QuadWords) (x : Vector Word 16) (k : Nat) (hk : k < 16) :
    (r.write w x)[k] =
      if r.d.val = k then w.d else if r.c.val = k then w.c else if r.b.val = k then w.b
      else if r.a.val = k then w.a else x[k] := by
  simp only [QuadIndex.write, Vector.getElem_set]

/-- A word outside the row may be written before or after it. -/
theorem QuadIndex.write_set (r : QuadIndex) (w : QuadWords) (x : Vector Word 16) (i : Fin 16) (v : Word)
    (h : i ∉ r.indices) : r.write w (x.set i v) = (r.write w x).set i v := by
  simp only [QuadIndex.indices, List.mem_cons, List.not_mem_nil, or_false, not_or, Fin.ext_iff] at h
  obtain ⟨ha, hb, hc, hd⟩ := h
  unfold QuadIndex.write
  rw [Vector.set_comm _ _ ha, Vector.set_comm _ _ hb, Vector.set_comm _ _ hc, Vector.set_comm _ _ hd]

/-- Two rows without a common index may be written in either order (30_encoding.md R59). -/
theorem QuadIndex.write_comm (r t : QuadIndex) (u w : QuadWords) (x : Vector Word 16)
    (h : ∀ i ∈ r.indices, i ∉ t.indices) : r.write u (t.write w x) = t.write w (r.write u x) := by
  simp only [QuadIndex.indices, List.forall_mem_cons] at h
  obtain ⟨ha, hb, hc, hd, -⟩ := h
  simp only [QuadIndex.write_set t w, ha, hb, hc, hd, QuadIndex.write.eq_1 r, not_false_eq_true,
    QuadIndex.indices]

/-- Reading a row whose four words another row's write leaves alone. -/
theorem QuadIndex.read_write (r t : QuadIndex) (w : QuadWords) (x : Vector Word 16)
    (h : ∀ i ∈ r.indices, i ∉ t.indices) : r.read (t.write w x) = r.read x := by
  have hk : ∀ i ∈ r.indices, (t.write w x)[i.val] = x[i.val] := by
    intro i hi
    have hn := h i hi
    simp only [QuadIndex.indices, List.mem_cons, List.not_mem_nil, or_false, not_or, Fin.ext_iff] at hn
    obtain ⟨ha, hb, hc, hd⟩ := hn
    rw [QuadIndex.getElem_write, if_neg (Ne.symm hd), if_neg (Ne.symm hc), if_neg (Ne.symm hb), if_neg (Ne.symm ha)]
  simp only [QuadIndex.read, Fin.getElem_fin, hk r.a (by simp [QuadIndex.indices]),
    hk r.b (by simp [QuadIndex.indices]), hk r.c (by simp [QuadIndex.indices]), hk r.d (by simp [QuadIndex.indices])]

/-- ROTL32 by less than the word width is the rotation of the bit vector (41_quarter_round.md R70). -/
theorem rotl32_eq_rotateLeft (v : Word) (n : Nat) (h : n < 32) : rotl32 v n = v.rotateLeft n := by
  unfold rotl32
  rw [BitVec.rotateLeft_def, Nat.mod_eq_of_lt h]

end Sys2Proof.Machine
end

