-- ==== Sys2Proof/Laws/State.lean ====
section
/-! SUPPORT. One lemma per field per update of the state, true by unfolding, so that no later proof unfolds a record
update. -/

namespace Sys2Proof.Machine

/-! ### `State.accept` (20_memory.md R44) -/

@[simp] theorem State.accept_key (s : State) : s.accept.key = s.key := rfl
@[simp] theorem State.accept_ctrLo (s : State) : s.accept.ctrLo = s.ctrLo := rfl
@[simp] theorem State.accept_ctrHi (s : State) : s.accept.ctrHi = s.ctrHi := rfl
@[simp] theorem State.accept_nonce (s : State) : s.accept.nonce = s.nonce := rfl
@[simp] theorem State.accept_x (s : State) : s.accept.x = s.x := rfl
@[simp] theorem State.accept_out (s : State) : s.accept.out = s.out := rfl
@[simp] theorem State.accept_keystg (s : State) : s.accept.keystg = s.keystg := rfl
@[simp] theorem State.accept_ivstg (s : State) : s.accept.ivstg = s.ivstg := rfl
@[simp] theorem State.accept_ctrstg (s : State) : s.accept.ctrstg = s.ctrstg := rfl
@[simp] theorem State.accept_gen (s : State) : s.accept.gen = s.gen := rfl
@[simp] theorem State.accept_valid (s : State) : s.accept.valid = s.valid := rfl
@[simp] theorem State.accept_err (s : State) : s.accept.err = s.err := rfl
@[simp] theorem State.accept_ovr (s : State) : s.accept.ovr = false := rfl
@[simp] theorem State.accept_phase (s : State) : s.accept.phase = s.phase := rfl
@[simp] theorem State.accept_q (s : State) : s.accept.q = s.q := rfl
@[simp] theorem State.accept_page (s : State) : s.accept.page = s.page := rfl
@[simp] theorem State.accept_inputs (s : State) : s.accept.inputs = s.inputs := rfl
@[simp] theorem State.accept_response (s : State) : s.accept.response = s.response := rfl
@[simp] theorem State.accept_draws (s : State) : s.accept.draws = s.draws := rfl

/-! ### `State.raise` (00_scope.md R10) -/

@[simp] theorem State.raise_key (e : ErrCode) (s : State) : (s.raise e).key = s.key := rfl
@[simp] theorem State.raise_ctrLo (e : ErrCode) (s : State) : (s.raise e).ctrLo = s.ctrLo := rfl
@[simp] theorem State.raise_ctrHi (e : ErrCode) (s : State) : (s.raise e).ctrHi = s.ctrHi := rfl
@[simp] theorem State.raise_nonce (e : ErrCode) (s : State) : (s.raise e).nonce = s.nonce := rfl
@[simp] theorem State.raise_x (e : ErrCode) (s : State) : (s.raise e).x = s.x := rfl
@[simp] theorem State.raise_out (e : ErrCode) (s : State) : (s.raise e).out = s.out := rfl
@[simp] theorem State.raise_keystg (e : ErrCode) (s : State) : (s.raise e).keystg = s.keystg := rfl
@[simp] theorem State.raise_ivstg (e : ErrCode) (s : State) : (s.raise e).ivstg = s.ivstg := rfl
@[simp] theorem State.raise_ctrstg (e : ErrCode) (s : State) : (s.raise e).ctrstg = s.ctrstg := rfl
@[simp] theorem State.raise_gen (e : ErrCode) (s : State) : (s.raise e).gen = s.gen := rfl
@[simp] theorem State.raise_valid (e : ErrCode) (s : State) : (s.raise e).valid = s.valid := rfl
@[simp] theorem State.raise_err (e : ErrCode) (s : State) : (s.raise e).err = e := rfl
@[simp] theorem State.raise_ovr (e : ErrCode) (s : State) : (s.raise e).ovr = s.ovr := rfl
@[simp] theorem State.raise_phase (e : ErrCode) (s : State) : (s.raise e).phase = s.phase := rfl
@[simp] theorem State.raise_q (e : ErrCode) (s : State) : (s.raise e).q = s.q := rfl
@[simp] theorem State.raise_page (e : ErrCode) (s : State) : (s.raise e).page = s.page := rfl
@[simp] theorem State.raise_inputs (e : ErrCode) (s : State) : (s.raise e).inputs = s.inputs := rfl
@[simp] theorem State.raise_response (e : ErrCode) (s : State) : (s.raise e).response = s.response := rfl
@[simp] theorem State.raise_draws (e : ErrCode) (s : State) : (s.raise e).draws = s.draws := rfl

/-! ### `State.discard` (40_commands.md R66) -/

@[simp] theorem State.discard_key (s : State) : s.discard.key = s.key := rfl
@[simp] theorem State.discard_ctrLo (s : State) : s.discard.ctrLo = s.ctrLo := rfl
@[simp] theorem State.discard_ctrHi (s : State) : s.discard.ctrHi = s.ctrHi := rfl
@[simp] theorem State.discard_nonce (s : State) : s.discard.nonce = s.nonce := rfl
@[simp] theorem State.discard_x (s : State) : s.discard.x = s.x := rfl
@[simp] theorem State.discard_out (s : State) : s.discard.out = s.out := rfl
@[simp] theorem State.discard_keystg (s : State) : s.discard.keystg = s.keystg := rfl
@[simp] theorem State.discard_ivstg (s : State) : s.discard.ivstg = s.ivstg := rfl
@[simp] theorem State.discard_ctrstg (s : State) : s.discard.ctrstg = s.ctrstg := rfl
@[simp] theorem State.discard_gen (s : State) : s.discard.gen = s.gen := rfl
@[simp] theorem State.discard_valid (s : State) : s.discard.valid = s.valid := rfl
@[simp] theorem State.discard_err (s : State) : s.discard.err = s.err := rfl
@[simp] theorem State.discard_ovr (s : State) : s.discard.ovr = true := rfl
@[simp] theorem State.discard_phase (s : State) : s.discard.phase = s.phase := rfl
@[simp] theorem State.discard_q (s : State) : s.discard.q = s.q := rfl
@[simp] theorem State.discard_page (s : State) : s.discard.page = s.page := rfl
@[simp] theorem State.discard_inputs (s : State) : s.discard.inputs = s.inputs := rfl
@[simp] theorem State.discard_response (s : State) : s.discard.response = s.response := rfl
@[simp] theorem State.discard_draws (s : State) : s.discard.draws = s.draws := rfl

/-! ### `State.clearValid` (40_commands.md R63) -/

@[simp] theorem State.clearValid_key (s : State) : s.clearValid.key = s.key := rfl
@[simp] theorem State.clearValid_ctrLo (s : State) : s.clearValid.ctrLo = s.ctrLo := rfl
@[simp] theorem State.clearValid_ctrHi (s : State) : s.clearValid.ctrHi = s.ctrHi := rfl
@[simp] theorem State.clearValid_nonce (s : State) : s.clearValid.nonce = s.nonce := rfl
@[simp] theorem State.clearValid_x (s : State) : s.clearValid.x = s.x := rfl
@[simp] theorem State.clearValid_out (s : State) : s.clearValid.out = s.out := rfl
@[simp] theorem State.clearValid_keystg (s : State) : s.clearValid.keystg = s.keystg := rfl
@[simp] theorem State.clearValid_ivstg (s : State) : s.clearValid.ivstg = s.ivstg := rfl
@[simp] theorem State.clearValid_ctrstg (s : State) : s.clearValid.ctrstg = s.ctrstg := rfl
@[simp] theorem State.clearValid_gen (s : State) : s.clearValid.gen = s.gen := rfl
@[simp] theorem State.clearValid_valid (s : State) : s.clearValid.valid = false := rfl
@[simp] theorem State.clearValid_err (s : State) : s.clearValid.err = s.err := rfl
@[simp] theorem State.clearValid_ovr (s : State) : s.clearValid.ovr = s.ovr := rfl
@[simp] theorem State.clearValid_phase (s : State) : s.clearValid.phase = s.phase := rfl
@[simp] theorem State.clearValid_q (s : State) : s.clearValid.q = s.q := rfl
@[simp] theorem State.clearValid_page (s : State) : s.clearValid.page = s.page := rfl
@[simp] theorem State.clearValid_inputs (s : State) : s.clearValid.inputs = s.inputs := rfl
@[simp] theorem State.clearValid_response (s : State) : s.clearValid.response = s.response := rfl
@[simp] theorem State.clearValid_draws (s : State) : s.clearValid.draws = s.draws := rfl

/-! ### `State.constructInstance` (40_commands.md R62) -/

@[simp] theorem State.constructInstance_key (s : State) : s.constructInstance.key = s.stagedKey := rfl
@[simp] theorem State.constructInstance_ctrLo (s : State) : s.constructInstance.ctrLo = 0 := rfl
@[simp] theorem State.constructInstance_ctrHi (s : State) : s.constructInstance.ctrHi = 0 := rfl
@[simp] theorem State.constructInstance_nonce (s : State) : s.constructInstance.nonce = s.stagedNonce := rfl
@[simp] theorem State.constructInstance_x (s : State) : s.constructInstance.x = s.x := rfl
@[simp] theorem State.constructInstance_out (s : State) : s.constructInstance.out = Vector.replicate 64 0 := rfl
@[simp] theorem State.constructInstance_keystg (s : State) : s.constructInstance.keystg = s.keystg := rfl
@[simp] theorem State.constructInstance_ivstg (s : State) : s.constructInstance.ivstg = s.ivstg := rfl
@[simp] theorem State.constructInstance_ctrstg (s : State) : s.constructInstance.ctrstg = s.ctrstg := rfl
@[simp] theorem State.constructInstance_gen (s : State) : s.constructInstance.gen = .active := rfl
@[simp] theorem State.constructInstance_valid (s : State) : s.constructInstance.valid = false := rfl
@[simp] theorem State.constructInstance_err (s : State) : s.constructInstance.err = .ok := rfl
@[simp] theorem State.constructInstance_ovr (s : State) : s.constructInstance.ovr = s.ovr := rfl
@[simp] theorem State.constructInstance_phase (s : State) : s.constructInstance.phase = s.phase := rfl
@[simp] theorem State.constructInstance_q (s : State) : s.constructInstance.q = s.q := rfl
@[simp] theorem State.constructInstance_page (s : State) : s.constructInstance.page = s.page := rfl
@[simp] theorem State.constructInstance_inputs (s : State) : s.constructInstance.inputs = s.inputs := rfl
@[simp] theorem State.constructInstance_response (s : State) : s.constructInstance.response = s.response := rfl
@[simp] theorem State.constructInstance_draws (s : State) : s.constructInstance.draws = s.draws := rfl

/-! ### `State.exhaust` (40_commands.md R63) -/

@[simp] theorem State.exhaust_key (s : State) : s.exhaust.key = s.key := rfl
@[simp] theorem State.exhaust_ctrLo (s : State) : s.exhaust.ctrLo = 0 := rfl
@[simp] theorem State.exhaust_ctrHi (s : State) : s.exhaust.ctrHi = 0 := rfl
@[simp] theorem State.exhaust_nonce (s : State) : s.exhaust.nonce = s.nonce := rfl
@[simp] theorem State.exhaust_x (s : State) : s.exhaust.x = s.x := rfl
@[simp] theorem State.exhaust_out (s : State) : s.exhaust.out = s.out := rfl
@[simp] theorem State.exhaust_keystg (s : State) : s.exhaust.keystg = s.keystg := rfl
@[simp] theorem State.exhaust_ivstg (s : State) : s.exhaust.ivstg = s.ivstg := rfl
@[simp] theorem State.exhaust_ctrstg (s : State) : s.exhaust.ctrstg = s.ctrstg := rfl
@[simp] theorem State.exhaust_gen (s : State) : s.exhaust.gen = .exhausted := rfl
@[simp] theorem State.exhaust_valid (s : State) : s.exhaust.valid = s.valid := rfl
@[simp] theorem State.exhaust_err (s : State) : s.exhaust.err = s.err := rfl
@[simp] theorem State.exhaust_ovr (s : State) : s.exhaust.ovr = s.ovr := rfl
@[simp] theorem State.exhaust_phase (s : State) : s.exhaust.phase = s.phase := rfl
@[simp] theorem State.exhaust_q (s : State) : s.exhaust.q = s.q := rfl
@[simp] theorem State.exhaust_page (s : State) : s.exhaust.page = s.page := rfl
@[simp] theorem State.exhaust_inputs (s : State) : s.exhaust.inputs = s.inputs := rfl
@[simp] theorem State.exhaust_response (s : State) : s.exhaust.response = s.response := rfl
@[simp] theorem State.exhaust_draws (s : State) : s.exhaust.draws = s.draws := rfl

/-! ### `State.startBlock` (40_commands.md R63) -/

@[simp] theorem State.startBlock_key (s : State) : s.startBlock.key = s.key := rfl
@[simp] theorem State.startBlock_ctrLo (s : State) : s.startBlock.ctrLo = s.ctrLo := rfl
@[simp] theorem State.startBlock_ctrHi (s : State) : s.startBlock.ctrHi = s.ctrHi := rfl
@[simp] theorem State.startBlock_nonce (s : State) : s.startBlock.nonce = s.nonce := rfl
@[simp] theorem State.startBlock_x (s : State) : s.startBlock.x = s.S := rfl
@[simp] theorem State.startBlock_out (s : State) : s.startBlock.out = s.out := rfl
@[simp] theorem State.startBlock_keystg (s : State) : s.startBlock.keystg = s.keystg := rfl
@[simp] theorem State.startBlock_ivstg (s : State) : s.startBlock.ivstg = s.ivstg := rfl
@[simp] theorem State.startBlock_ctrstg (s : State) : s.startBlock.ctrstg = s.ctrstg := rfl
@[simp] theorem State.startBlock_gen (s : State) : s.startBlock.gen = s.gen := rfl
@[simp] theorem State.startBlock_valid (s : State) : s.startBlock.valid = s.valid := rfl
@[simp] theorem State.startBlock_err (s : State) : s.startBlock.err = .ok := rfl
@[simp] theorem State.startBlock_ovr (s : State) : s.startBlock.ovr = s.ovr := rfl
@[simp] theorem State.startBlock_phase (s : State) : s.startBlock.phase = .round := rfl
@[simp] theorem State.startBlock_q (s : State) : s.startBlock.q = 0 := rfl
@[simp] theorem State.startBlock_page (s : State) : s.startBlock.page = s.page := rfl
@[simp] theorem State.startBlock_inputs (s : State) : s.startBlock.inputs = s.inputs := rfl
@[simp] theorem State.startBlock_response (s : State) : s.startBlock.response = s.response := rfl
@[simp] theorem State.startBlock_draws (s : State) : s.startBlock.draws = s.draws := rfl

/-! ### `State.loadCounter` (40_commands.md R64) -/

@[simp] theorem State.loadCounter_key (s : State) : s.loadCounter.key = s.key := rfl
@[simp] theorem State.loadCounter_ctrLo (s : State) : s.loadCounter.ctrLo = s.stagedCtrLo := rfl
@[simp] theorem State.loadCounter_ctrHi (s : State) : s.loadCounter.ctrHi = s.stagedCtrHi := rfl
@[simp] theorem State.loadCounter_nonce (s : State) : s.loadCounter.nonce = s.nonce := rfl
@[simp] theorem State.loadCounter_x (s : State) : s.loadCounter.x = s.x := rfl
@[simp] theorem State.loadCounter_out (s : State) : s.loadCounter.out = s.out := rfl
@[simp] theorem State.loadCounter_keystg (s : State) : s.loadCounter.keystg = s.keystg := rfl
@[simp] theorem State.loadCounter_ivstg (s : State) : s.loadCounter.ivstg = s.ivstg := rfl
@[simp] theorem State.loadCounter_ctrstg (s : State) : s.loadCounter.ctrstg = s.ctrstg := rfl
@[simp] theorem State.loadCounter_gen (s : State) : s.loadCounter.gen = s.gen := rfl
@[simp] theorem State.loadCounter_valid (s : State) : s.loadCounter.valid = s.valid := rfl
@[simp] theorem State.loadCounter_err (s : State) : s.loadCounter.err = .ok := rfl
@[simp] theorem State.loadCounter_ovr (s : State) : s.loadCounter.ovr = s.ovr := rfl
@[simp] theorem State.loadCounter_phase (s : State) : s.loadCounter.phase = s.phase := rfl
@[simp] theorem State.loadCounter_q (s : State) : s.loadCounter.q = s.q := rfl
@[simp] theorem State.loadCounter_page (s : State) : s.loadCounter.page = s.page := rfl
@[simp] theorem State.loadCounter_inputs (s : State) : s.loadCounter.inputs = s.inputs := rfl
@[simp] theorem State.loadCounter_response (s : State) : s.loadCounter.response = s.response := rfl
@[simp] theorem State.loadCounter_draws (s : State) : s.loadCounter.draws = s.draws := rfl

/-! ### `State.counterIncrement` (43_counter.md R82) -/

@[simp] theorem State.counterIncrement_key (s : State) : s.counterIncrement.key = s.key := rfl
@[simp] theorem State.counterIncrement_ctrLo (s : State) : s.counterIncrement.ctrLo = s.ctrLo + 1 := rfl
@[simp] theorem State.counterIncrement_ctrHi (s : State) : s.counterIncrement.ctrHi = if s.ctrLo + 1 = 0 then s.ctrHi + 1 else s.ctrHi := rfl
@[simp] theorem State.counterIncrement_nonce (s : State) : s.counterIncrement.nonce = s.nonce := rfl
@[simp] theorem State.counterIncrement_x (s : State) : s.counterIncrement.x = s.x := rfl
@[simp] theorem State.counterIncrement_out (s : State) : s.counterIncrement.out = s.out := rfl
@[simp] theorem State.counterIncrement_keystg (s : State) : s.counterIncrement.keystg = s.keystg := rfl
@[simp] theorem State.counterIncrement_ivstg (s : State) : s.counterIncrement.ivstg = s.ivstg := rfl
@[simp] theorem State.counterIncrement_ctrstg (s : State) : s.counterIncrement.ctrstg = s.ctrstg := rfl
@[simp] theorem State.counterIncrement_gen (s : State) : s.counterIncrement.gen = s.gen := rfl
@[simp] theorem State.counterIncrement_valid (s : State) : s.counterIncrement.valid = s.valid := rfl
@[simp] theorem State.counterIncrement_err (s : State) : s.counterIncrement.err = s.err := rfl
@[simp] theorem State.counterIncrement_ovr (s : State) : s.counterIncrement.ovr = s.ovr := rfl
@[simp] theorem State.counterIncrement_phase (s : State) : s.counterIncrement.phase = s.phase := rfl
@[simp] theorem State.counterIncrement_q (s : State) : s.counterIncrement.q = s.q := rfl
@[simp] theorem State.counterIncrement_page (s : State) : s.counterIncrement.page = s.page := rfl
@[simp] theorem State.counterIncrement_inputs (s : State) : s.counterIncrement.inputs = s.inputs := rfl
@[simp] theorem State.counterIncrement_response (s : State) : s.counterIncrement.response = s.response := rfl
@[simp] theorem State.counterIncrement_draws (s : State) : s.counterIncrement.draws = s.draws := rfl

/-! ### `State.finalStep` (42_round_sequencer.md R77) -/

@[simp] theorem State.finalStep_key (s : State) : s.finalStep.key = s.key := rfl
@[simp] theorem State.finalStep_ctrLo (s : State) : s.finalStep.ctrLo = s.ctrLo + 1 := rfl
@[simp] theorem State.finalStep_ctrHi (s : State) : s.finalStep.ctrHi = if s.ctrLo + 1 = 0 then s.ctrHi + 1 else s.ctrHi := rfl
@[simp] theorem State.finalStep_nonce (s : State) : s.finalStep.nonce = s.nonce := rfl
@[simp] theorem State.finalStep_x (s : State) : s.finalStep.x = s.x := rfl
@[simp] theorem State.finalStep_out (s : State) : s.finalStep.out = serialize (feedForward s.x s.S) := rfl
@[simp] theorem State.finalStep_keystg (s : State) : s.finalStep.keystg = s.keystg := rfl
@[simp] theorem State.finalStep_ivstg (s : State) : s.finalStep.ivstg = s.ivstg := rfl
@[simp] theorem State.finalStep_ctrstg (s : State) : s.finalStep.ctrstg = s.ctrstg := rfl
@[simp] theorem State.finalStep_gen (s : State) : s.finalStep.gen = s.gen := rfl
@[simp] theorem State.finalStep_valid (s : State) : s.finalStep.valid = true := rfl
@[simp] theorem State.finalStep_err (s : State) : s.finalStep.err = s.err := rfl
@[simp] theorem State.finalStep_ovr (s : State) : s.finalStep.ovr = s.ovr := rfl
@[simp] theorem State.finalStep_phase (s : State) : s.finalStep.phase = .idle := rfl
@[simp] theorem State.finalStep_q (s : State) : s.finalStep.q = s.q := rfl
@[simp] theorem State.finalStep_page (s : State) : s.finalStep.page = s.page := rfl
@[simp] theorem State.finalStep_inputs (s : State) : s.finalStep.inputs = s.inputs := rfl
@[simp] theorem State.finalStep_response (s : State) : s.finalStep.response = s.response := rfl
@[simp] theorem State.finalStep_draws (s : State) : s.finalStep.draws = s.draws := rfl

/-! ### `State.withCounter` (42_round_sequencer.md R79) -/

@[simp] theorem State.withCounter_key (c : DWord) (s : State) : (s.withCounter c).key = s.key := rfl
@[simp] theorem State.withCounter_ctrLo (c : DWord) (s : State) : (s.withCounter c).ctrLo = c.extractLsb' 0 32 := rfl
@[simp] theorem State.withCounter_ctrHi (c : DWord) (s : State) : (s.withCounter c).ctrHi = c.extractLsb' 32 32 := rfl
@[simp] theorem State.withCounter_nonce (c : DWord) (s : State) : (s.withCounter c).nonce = s.nonce := rfl
@[simp] theorem State.withCounter_x (c : DWord) (s : State) : (s.withCounter c).x = s.x := rfl
@[simp] theorem State.withCounter_out (c : DWord) (s : State) : (s.withCounter c).out = s.out := rfl
@[simp] theorem State.withCounter_keystg (c : DWord) (s : State) : (s.withCounter c).keystg = s.keystg := rfl
@[simp] theorem State.withCounter_ivstg (c : DWord) (s : State) : (s.withCounter c).ivstg = s.ivstg := rfl
@[simp] theorem State.withCounter_ctrstg (c : DWord) (s : State) : (s.withCounter c).ctrstg = s.ctrstg := rfl
@[simp] theorem State.withCounter_gen (c : DWord) (s : State) : (s.withCounter c).gen = s.gen := rfl
@[simp] theorem State.withCounter_valid (c : DWord) (s : State) : (s.withCounter c).valid = s.valid := rfl
@[simp] theorem State.withCounter_err (c : DWord) (s : State) : (s.withCounter c).err = s.err := rfl
@[simp] theorem State.withCounter_ovr (c : DWord) (s : State) : (s.withCounter c).ovr = s.ovr := rfl
@[simp] theorem State.withCounter_phase (c : DWord) (s : State) : (s.withCounter c).phase = s.phase := rfl
@[simp] theorem State.withCounter_q (c : DWord) (s : State) : (s.withCounter c).q = s.q := rfl
@[simp] theorem State.withCounter_page (c : DWord) (s : State) : (s.withCounter c).page = s.page := rfl
@[simp] theorem State.withCounter_inputs (c : DWord) (s : State) : (s.withCounter c).inputs = s.inputs := rfl
@[simp] theorem State.withCounter_response (c : DWord) (s : State) : (s.withCounter c).response = s.response := rfl
@[simp] theorem State.withCounter_draws (c : DWord) (s : State) : (s.withCounter c).draws = s.draws := rfl

/-! ### `State.consumeInput` (one cycle is over) -/

@[simp] theorem State.consumeInput_key (s : State) : s.consumeInput.key = s.key := rfl
@[simp] theorem State.consumeInput_ctrLo (s : State) : s.consumeInput.ctrLo = s.ctrLo := rfl
@[simp] theorem State.consumeInput_ctrHi (s : State) : s.consumeInput.ctrHi = s.ctrHi := rfl
@[simp] theorem State.consumeInput_nonce (s : State) : s.consumeInput.nonce = s.nonce := rfl
@[simp] theorem State.consumeInput_x (s : State) : s.consumeInput.x = s.x := rfl
@[simp] theorem State.consumeInput_out (s : State) : s.consumeInput.out = s.out := rfl
@[simp] theorem State.consumeInput_keystg (s : State) : s.consumeInput.keystg = s.keystg := rfl
@[simp] theorem State.consumeInput_ivstg (s : State) : s.consumeInput.ivstg = s.ivstg := rfl
@[simp] theorem State.consumeInput_ctrstg (s : State) : s.consumeInput.ctrstg = s.ctrstg := rfl
@[simp] theorem State.consumeInput_gen (s : State) : s.consumeInput.gen = s.gen := rfl
@[simp] theorem State.consumeInput_valid (s : State) : s.consumeInput.valid = s.valid := rfl
@[simp] theorem State.consumeInput_err (s : State) : s.consumeInput.err = s.err := rfl
@[simp] theorem State.consumeInput_ovr (s : State) : s.consumeInput.ovr = s.ovr := rfl
@[simp] theorem State.consumeInput_phase (s : State) : s.consumeInput.phase = s.phase := rfl
@[simp] theorem State.consumeInput_q (s : State) : s.consumeInput.q = s.q := rfl
@[simp] theorem State.consumeInput_page (s : State) : s.consumeInput.page = s.page := rfl
@[simp] theorem State.consumeInput_inputs (s : State) : s.consumeInput.inputs = s.inputs.tail := rfl
@[simp] theorem State.consumeInput_response (s : State) : s.consumeInput.response = s.response := rfl
@[simp] theorem State.consumeInput_draws (s : State) : s.consumeInput.draws = s.draws := rfl

/-! ### `State.storeByte`, `State.storeWord` (20_memory.md R43): only the staging registers -/

@[simp] theorem State.storeByte_key (off : Offset) (b : Byte) (s : State) : (s.storeByte off b).key = s.key := by
  unfold State.storeByte; cases region off <;> rfl
@[simp] theorem State.storeByte_ctrLo (off : Offset) (b : Byte) (s : State) : (s.storeByte off b).ctrLo = s.ctrLo := by
  unfold State.storeByte; cases region off <;> rfl
@[simp] theorem State.storeByte_ctrHi (off : Offset) (b : Byte) (s : State) : (s.storeByte off b).ctrHi = s.ctrHi := by
  unfold State.storeByte; cases region off <;> rfl
@[simp] theorem State.storeByte_nonce (off : Offset) (b : Byte) (s : State) : (s.storeByte off b).nonce = s.nonce := by
  unfold State.storeByte; cases region off <;> rfl
@[simp] theorem State.storeByte_x (off : Offset) (b : Byte) (s : State) : (s.storeByte off b).x = s.x := by
  unfold State.storeByte; cases region off <;> rfl
@[simp] theorem State.storeByte_out (off : Offset) (b : Byte) (s : State) : (s.storeByte off b).out = s.out := by
  unfold State.storeByte; cases region off <;> rfl
@[simp] theorem State.storeByte_gen (off : Offset) (b : Byte) (s : State) : (s.storeByte off b).gen = s.gen := by
  unfold State.storeByte; cases region off <;> rfl
@[simp] theorem State.storeByte_valid (off : Offset) (b : Byte) (s : State) : (s.storeByte off b).valid = s.valid := by
  unfold State.storeByte; cases region off <;> rfl
@[simp] theorem State.storeByte_err (off : Offset) (b : Byte) (s : State) : (s.storeByte off b).err = s.err := by
  unfold State.storeByte; cases region off <;> rfl
@[simp] theorem State.storeByte_ovr (off : Offset) (b : Byte) (s : State) : (s.storeByte off b).ovr = s.ovr := by
  unfold State.storeByte; cases region off <;> rfl
@[simp] theorem State.storeByte_phase (off : Offset) (b : Byte) (s : State) : (s.storeByte off b).phase = s.phase := by
  unfold State.storeByte; cases region off <;> rfl
@[simp] theorem State.storeByte_q (off : Offset) (b : Byte) (s : State) : (s.storeByte off b).q = s.q := by
  unfold State.storeByte; cases region off <;> rfl
@[simp] theorem State.storeByte_page (off : Offset) (b : Byte) (s : State) : (s.storeByte off b).page = s.page := by
  unfold State.storeByte; cases region off <;> rfl
@[simp] theorem State.storeByte_inputs (off : Offset) (b : Byte) (s : State) : (s.storeByte off b).inputs = s.inputs := by
  unfold State.storeByte; cases region off <;> rfl
@[simp] theorem State.storeByte_response (off : Offset) (b : Byte) (s : State) : (s.storeByte off b).response = s.response := by
  unfold State.storeByte; cases region off <;> rfl
@[simp] theorem State.storeByte_draws (off : Offset) (b : Byte) (s : State) : (s.storeByte off b).draws = s.draws := by
  unfold State.storeByte; cases region off <;> rfl
@[simp] theorem State.storeWord_key (off : Offset) (v : Word) (s : State) : (s.storeWord off v).key = s.key := by
  simp [State.storeWord]
@[simp] theorem State.storeWord_ctrLo (off : Offset) (v : Word) (s : State) : (s.storeWord off v).ctrLo = s.ctrLo := by
  simp [State.storeWord]
@[simp] theorem State.storeWord_ctrHi (off : Offset) (v : Word) (s : State) : (s.storeWord off v).ctrHi = s.ctrHi := by
  simp [State.storeWord]
@[simp] theorem State.storeWord_nonce (off : Offset) (v : Word) (s : State) : (s.storeWord off v).nonce = s.nonce := by
  simp [State.storeWord]
@[simp] theorem State.storeWord_x (off : Offset) (v : Word) (s : State) : (s.storeWord off v).x = s.x := by
  simp [State.storeWord]
@[simp] theorem State.storeWord_out (off : Offset) (v : Word) (s : State) : (s.storeWord off v).out = s.out := by
  simp [State.storeWord]
@[simp] theorem State.storeWord_gen (off : Offset) (v : Word) (s : State) : (s.storeWord off v).gen = s.gen := by
  simp [State.storeWord]
@[simp] theorem State.storeWord_valid (off : Offset) (v : Word) (s : State) : (s.storeWord off v).valid = s.valid := by
  simp [State.storeWord]
@[simp] theorem State.storeWord_err (off : Offset) (v : Word) (s : State) : (s.storeWord off v).err = s.err := by
  simp [State.storeWord]
@[simp] theorem State.storeWord_ovr (off : Offset) (v : Word) (s : State) : (s.storeWord off v).ovr = s.ovr := by
  simp [State.storeWord]
@[simp] theorem State.storeWord_phase (off : Offset) (v : Word) (s : State) : (s.storeWord off v).phase = s.phase := by
  simp [State.storeWord]
@[simp] theorem State.storeWord_q (off : Offset) (v : Word) (s : State) : (s.storeWord off v).q = s.q := by
  simp [State.storeWord]
@[simp] theorem State.storeWord_page (off : Offset) (v : Word) (s : State) : (s.storeWord off v).page = s.page := by
  simp [State.storeWord]
@[simp] theorem State.storeWord_inputs (off : Offset) (v : Word) (s : State) : (s.storeWord off v).inputs = s.inputs := by
  simp [State.storeWord]
@[simp] theorem State.storeWord_response (off : Offset) (v : Word) (s : State) : (s.storeWord off v).response = s.response := by
  simp [State.storeWord]
@[simp] theorem State.storeWord_draws (off : Offset) (v : Word) (s : State) : (s.storeWord off v).draws = s.draws := by
  simp [State.storeWord]

/-! ### `State.roundStep` (42_round_sequencer.md R74): X, PHASE, q and the model's draw count -/

@[simp] theorem State.roundStep_key (s : State) : s.roundStep.key = s.key := by
  unfold State.roundStep; split <;> rfl
@[simp] theorem State.roundStep_ctrLo (s : State) : s.roundStep.ctrLo = s.ctrLo := by
  unfold State.roundStep; split <;> rfl
@[simp] theorem State.roundStep_ctrHi (s : State) : s.roundStep.ctrHi = s.ctrHi := by
  unfold State.roundStep; split <;> rfl
@[simp] theorem State.roundStep_nonce (s : State) : s.roundStep.nonce = s.nonce := by
  unfold State.roundStep; split <;> rfl
@[simp] theorem State.roundStep_x (s : State) : s.roundStep.x = qrX (schedRow s.q.toNat) s.x := by
  unfold State.roundStep; split <;> rfl
@[simp] theorem State.roundStep_out (s : State) : s.roundStep.out = s.out := by
  unfold State.roundStep; split <;> rfl
@[simp] theorem State.roundStep_keystg (s : State) : s.roundStep.keystg = s.keystg := by
  unfold State.roundStep; split <;> rfl
@[simp] theorem State.roundStep_ivstg (s : State) : s.roundStep.ivstg = s.ivstg := by
  unfold State.roundStep; split <;> rfl
@[simp] theorem State.roundStep_ctrstg (s : State) : s.roundStep.ctrstg = s.ctrstg := by
  unfold State.roundStep; split <;> rfl
@[simp] theorem State.roundStep_gen (s : State) : s.roundStep.gen = s.gen := by
  unfold State.roundStep; split <;> rfl
@[simp] theorem State.roundStep_valid (s : State) : s.roundStep.valid = s.valid := by
  unfold State.roundStep; split <;> rfl
@[simp] theorem State.roundStep_err (s : State) : s.roundStep.err = s.err := by
  unfold State.roundStep; split <;> rfl
@[simp] theorem State.roundStep_ovr (s : State) : s.roundStep.ovr = s.ovr := by
  unfold State.roundStep; split <;> rfl
@[simp] theorem State.roundStep_page (s : State) : s.roundStep.page = s.page := by
  unfold State.roundStep; split <;> rfl
@[simp] theorem State.roundStep_inputs (s : State) : s.roundStep.inputs = s.inputs := by
  unfold State.roundStep; split <;> rfl
@[simp] theorem State.roundStep_response (s : State) : s.roundStep.response = s.response := by
  unfold State.roundStep; split <;> rfl

/-- The ROUND step with q = 79 ends the rounds; q is then a free value. -/
theorem State.roundStep_last {s : State} (h : s.q = 79) :
    s.roundStep = { s with
      x := qrX (schedRow s.q.toNat) s.x, phase := .final, q := Config.freeIndex s.draws, draws := s.draws + 1 } :=
  if_pos h

/-- Any other ROUND step goes on to the next q. -/
theorem State.roundStep_notLast {s : State} (h : s.q ≠ 79) :
    s.roundStep = { s with x := qrX (schedRow s.q.toNat) s.x, q := s.q + 1 } :=
  if_neg h

/-! ### `State.sequencerStep` (70_reset_and_hazards.md R104): what no sequencer step writes -/

@[simp] theorem State.sequencerStep_key (s : State) : s.sequencerStep.key = s.key := by
  unfold State.sequencerStep; cases s.phase <;> simp
@[simp] theorem State.sequencerStep_nonce (s : State) : s.sequencerStep.nonce = s.nonce := by
  unfold State.sequencerStep; cases s.phase <;> simp
@[simp] theorem State.sequencerStep_keystg (s : State) : s.sequencerStep.keystg = s.keystg := by
  unfold State.sequencerStep; cases s.phase <;> simp
@[simp] theorem State.sequencerStep_ivstg (s : State) : s.sequencerStep.ivstg = s.ivstg := by
  unfold State.sequencerStep; cases s.phase <;> simp
@[simp] theorem State.sequencerStep_ctrstg (s : State) : s.sequencerStep.ctrstg = s.ctrstg := by
  unfold State.sequencerStep; cases s.phase <;> simp
@[simp] theorem State.sequencerStep_gen (s : State) : s.sequencerStep.gen = s.gen := by
  unfold State.sequencerStep; cases s.phase <;> simp
@[simp] theorem State.sequencerStep_err (s : State) : s.sequencerStep.err = s.err := by
  unfold State.sequencerStep; cases s.phase <;> simp
@[simp] theorem State.sequencerStep_ovr (s : State) : s.sequencerStep.ovr = s.ovr := by
  unfold State.sequencerStep; cases s.phase <;> simp
@[simp] theorem State.sequencerStep_page (s : State) : s.sequencerStep.page = s.page := by
  unfold State.sequencerStep; cases s.phase <;> simp
@[simp] theorem State.sequencerStep_inputs (s : State) : s.sequencerStep.inputs = s.inputs := by
  unfold State.sequencerStep; cases s.phase <;> simp
@[simp] theorem State.sequencerStep_response (s : State) : s.sequencerStep.response = s.response := by
  unfold State.sequencerStep; cases s.phase <;> simp

/-! ### `State.land` (70_reset_and_hazards.md R104): what the host's side alone decides -/

@[simp] theorem State.land_keystg (s h : State) : (s.land h).keystg = h.keystg := by
  unfold State.land; split <;> rfl
@[simp] theorem State.land_ivstg (s h : State) : (s.land h).ivstg = h.ivstg := by
  unfold State.land; split <;> rfl
@[simp] theorem State.land_ctrstg (s h : State) : (s.land h).ctrstg = h.ctrstg := by
  unfold State.land; split <;> rfl
@[simp] theorem State.land_ovr (s h : State) : (s.land h).ovr = h.ovr := by
  unfold State.land; split <;> rfl
@[simp] theorem State.land_response (s h : State) : (s.land h).response = h.response := by
  unfold State.land; split <;> rfl

/-! ### `State.resetCycle` (70_reset_and_hazards.md R101, 10_state.md R33) -/

@[simp] theorem State.resetCycle_key (a : Option Access) (s : State) : (s.resetCycle a).key = Vector.replicate 8 0 := rfl
@[simp] theorem State.resetCycle_ctrLo (a : Option Access) (s : State) : (s.resetCycle a).ctrLo = 0 := rfl
@[simp] theorem State.resetCycle_ctrHi (a : Option Access) (s : State) : (s.resetCycle a).ctrHi = 0 := rfl
@[simp] theorem State.resetCycle_nonce (a : Option Access) (s : State) : (s.resetCycle a).nonce = Vector.replicate 2 0 := rfl
@[simp] theorem State.resetCycle_x (a : Option Access) (s : State) : (s.resetCycle a).x = Vector.ofFn fun i => Config.freeWord s.draws i.val := rfl
@[simp] theorem State.resetCycle_out (a : Option Access) (s : State) : (s.resetCycle a).out = Vector.replicate 64 0 := rfl
@[simp] theorem State.resetCycle_keystg (a : Option Access) (s : State) : (s.resetCycle a).keystg = Vector.replicate 32 0 := rfl
@[simp] theorem State.resetCycle_ivstg (a : Option Access) (s : State) : (s.resetCycle a).ivstg = Vector.replicate 8 0 := rfl
@[simp] theorem State.resetCycle_ctrstg (a : Option Access) (s : State) : (s.resetCycle a).ctrstg = Vector.replicate 8 0 := rfl
@[simp] theorem State.resetCycle_gen (a : Option Access) (s : State) : (s.resetCycle a).gen = .uninit := rfl
@[simp] theorem State.resetCycle_valid (a : Option Access) (s : State) : (s.resetCycle a).valid = false := rfl
@[simp] theorem State.resetCycle_err (a : Option Access) (s : State) : (s.resetCycle a).err = .ok := rfl
@[simp] theorem State.resetCycle_ovr (a : Option Access) (s : State) : (s.resetCycle a).ovr = false := rfl
@[simp] theorem State.resetCycle_phase (a : Option Access) (s : State) : (s.resetCycle a).phase = .idle := rfl
@[simp] theorem State.resetCycle_q (a : Option Access) (s : State) : (s.resetCycle a).q = Config.freeIndex s.draws := rfl
@[simp] theorem State.resetCycle_page (a : Option Access) (s : State) : (s.resetCycle a).page = s.page := rfl
@[simp] theorem State.resetCycle_inputs (a : Option Access) (s : State) : (s.resetCycle a).inputs = s.inputs := rfl
@[simp] theorem State.resetCycle_response (a : Option Access) (s : State) : (s.resetCycle a).response = s.resetResponse a := rfl
@[simp] theorem State.resetCycle_draws (a : Option Access) (s : State) : (s.resetCycle a).draws = s.draws + 1 := rfl

end Sys2Proof.Machine
end

