-- ==== Sys2Proof/Laws/Window.lean ====
section
/-! SUPPORT. The window: which offset a host address has, which region an offset has, and everything one host access
can do (20_memory.md R34 to R45). -/

namespace Sys2Proof.Machine

/-- An address of the window has its offset (20_memory.md R34). -/
theorem offsetOf_coreBase_add (page : Nat) (off : Nat) (h : off < 0x100) :
    offsetOf page (coreBase page + off) = some (BitVec.ofNat 8 off) := by
  unfold offsetOf
  rw [if_pos (by omega)]
  simp

/-- An address outside the window has none (20_memory.md R45). -/
theorem offsetOf_eq_none (page addr : Nat) (h : addr < coreBase page ∨ coreBase page + 0x100 ≤ addr) :
    offsetOf page addr = none := by
  unfold offsetOf
  rw [if_neg (by omega)]

/-- CMD is at the offsets 0x30 to 0x33 (20_memory.md R35). -/
theorem region_eq_cmd (off : Offset) : region off = .cmd ↔ 0x30 ≤ off.toNat ∧ off.toNat < 0x34 := by
  unfold region
  repeat' split
  all_goals simp
  all_goals omega

/-- STATUS is at the offsets 0x34 to 0x37 (20_memory.md R35). -/
theorem region_eq_status (off : Offset) : region off = .status ↔ 0x34 ≤ off.toNat ∧ off.toNat < 0x38 := by
  unfold region
  repeat' split
  all_goals simp
  all_goals omega

/-- The reserved offsets (20_memory.md R35). -/
theorem region_eq_reserved (off : Offset) :
    region off = .reserved ↔ (0x38 ≤ off.toNat ∧ off.toNat < 0x40) ∨ 0x80 ≤ off.toNat := by
  unfold region
  repeat' split
  all_goals simp
  all_goals omega

/-- KEYSTG[k] is at offset k (20_memory.md R35). -/
theorem region_eq_keystg (off : Offset) (k : Fin 32) : region off = .keystg k ↔ off.toNat = k.val := by
  unfold region
  repeat' split
  all_goals simp [Fin.ext_iff]
  all_goals omega

/-- IVSTG[k] is at offset 0x20 + k (20_memory.md R35). -/
theorem region_eq_ivstg (off : Offset) (k : Fin 8) : region off = .ivstg k ↔ off.toNat = 0x20 + k.val := by
  unfold region
  repeat' split
  all_goals simp [Fin.ext_iff]
  all_goals omega

/-- CTRSTG[k] is at offset 0x28 + k (20_memory.md R35). -/
theorem region_eq_ctrstg (off : Offset) (k : Fin 8) : region off = .ctrstg k ↔ off.toNat = 0x28 + k.val := by
  unfold region
  repeat' split
  all_goals simp [Fin.ext_iff]
  all_goals omega

/-- OUT[k] is at offset 0x40 + k (20_memory.md R35). -/
theorem region_eq_out (off : Offset) (k : Fin 64) : region off = .out k ↔ off.toNat = 0x40 + k.val := by
  unfold region
  repeat' split
  all_goals simp [Fin.ext_iff]
  all_goals omega

/-- A state that differs from `s` at most in the staging registers and the answer the host sees. -/
def SameButStaging (s t : State) : Prop :=
  ∃ ks is cs r, t = { s with keystg := ks, ivstg := is, ctrstg := cs, response := r }

theorem SameButStaging.refl (s : State) : SameButStaging s s := ⟨s.keystg, s.ivstg, s.ctrstg, s.response, rfl⟩

theorem SameButStaging.answer {s t : State} (r : Response) (h : SameButStaging s t) :
    SameButStaging s { t with response := r } := by
  obtain ⟨ks, is, cs, r', rfl⟩ := h
  exact ⟨ks, is, cs, r, rfl⟩

/-- A staging write changes staging only (20_memory.md R43). -/
theorem SameButStaging.storeByte {s t : State} (off : Offset) (b : Byte) (h : SameButStaging s t) :
    SameButStaging s (t.storeByte off b) := by
  obtain ⟨ks, is, cs, r, rfl⟩ := h
  unfold State.storeByte
  cases region off <;> exact ⟨_, _, _, _, rfl⟩

theorem SameButStaging.storeWord {s t : State} (off : Offset) (v : Word) (h : SameButStaging s t) :
    SameButStaging s (t.storeWord off v) :=
  (((h.storeByte _ _).storeByte _ _).storeByte _ _).storeByte _ _

/-- A read changes nothing but the answer, or it is a bus error (20_memory.md R40, R41). -/
theorem hostRead_cases (off : Offset) (w : Width) (s : State) :
    (∃ r, hostRead off w s = .next { s with response := r }) ∨ hostRead off w s = .fault .busError := by
  unfold hostRead
  split
  · cases w
    · exact .inl ⟨_, rfl⟩
    · exact .inl ⟨_, rfl⟩
    · exact .inr rfl
  · exact .inr rfl

/-- Read after write: a stored staging byte reads back, and every other byte is left alone (20_memory.md R43). -/
theorem State.storedByte_storeByte (s : State) (off o : Offset) (b : Byte) (h : off.toNat < 0x30) :
    (s.storeByte off b).storedByte o = if o = off then some b else s.storedByte o := by
  by_cases h1 : off.toNat < 0x20
  · have hr := (region_eq_keystg off ⟨off.toNat, h1⟩).2 rfl
    split
    · subst o; simp [State.storeByte, State.storedByte, hr]
    · rename_i hne
      simp only [State.storeByte, State.storedByte, hr]
      cases hro : region o <;> simp
      rename_i k
      have := (region_eq_keystg _ _).1 hro
      rw [Vector.getElem_set_ne]
      intro e; apply hne; apply BitVec.eq_of_toNat_eq; omega
  by_cases h2 : off.toNat < 0x28
  · have hr := (region_eq_ivstg off ⟨off.toNat - 0x20, by omega⟩).2 (by simp; omega)
    split
    · subst o; simp [State.storeByte, State.storedByte, hr]
    · rename_i hne
      simp only [State.storeByte, State.storedByte, hr]
      cases hro : region o <;> simp
      rename_i k
      have := (region_eq_ivstg _ _).1 hro
      rw [Vector.getElem_set_ne]
      intro e; apply hne; apply BitVec.eq_of_toNat_eq; omega
  · have hr := (region_eq_ctrstg off ⟨off.toNat - 0x28, by omega⟩).2 (by simp; omega)
    split
    · subst o; simp [State.storeByte, State.storedByte, hr]
    · rename_i hne
      simp only [State.storeByte, State.storedByte, hr]
      cases hro : region o <;> simp
      rename_i k
      have := (region_eq_ctrstg _ _).1 hro
      rw [Vector.getElem_set_ne]
      intro e; apply hne; apply BitVec.eq_of_toNat_eq; omega

/-- A word write at offset 0x30 is Command(v) (20_memory.md R43). -/
theorem hostWrite_cmd (v : Word) (s : State) : hostWrite 0x30 .word v s = writeDone (commandWrite v s) := rfl

/-- Any other write changes staging only, or it is a bus error (20_memory.md R38, R43). -/
theorem hostWrite_cases (off : Offset) (w : Width) (v : Word) (s : State) (h : ¬ (w = .word ∧ off = 0x30)) :
    (∃ t, hostWrite off w v s = .next t ∧ SameButStaging s t) ∨ hostWrite off w v s = .fault .busError := by
  unfold hostWrite
  split
  case isFalse => exact .inr rfl
  case isTrue ha =>
    cases w with
    | other n => simp [admitted] at ha
    | byte =>
      left
      cases hr : region off <;> simp [admitted, byteAdmitted, hr] at ha
      all_goals exact ⟨_, rfl, ((SameButStaging.refl s).storeByte _ _).answer _⟩
    | word =>
      left
      cases hr : region off <;> simp [admitted, wordAdmitted, hr] at ha
      case cmd =>
        have hc := (region_eq_cmd off).1 hr
        exact absurd ⟨rfl, BitVec.eq_of_toNat_eq (by simp; omega)⟩ h
      all_goals exact ⟨_, rfl, ((SameButStaging.refl s).storeWord _ _).answer _⟩

/-- An access that writes no command changes at most staging and the answer, or it is a bus error. -/
theorem hostAccess_cases (a : Access) (s : State) (h : cmdWordOf s.page (some a) = none) :
    (∃ t, hostAccess a s = .next t ∧ SameButStaging s t) ∨ hostAccess a s = .fault .busError := by
  unfold hostAccess
  cases ho : offsetOf s.page a.addr with
  | none => exact .inl ⟨_, rfl, (SameButStaging.refl s).answer _⟩
  | some off =>
    cases hk : a.kind with
    | read =>
      rcases hostRead_cases off a.width s with ⟨r, hr⟩ | hr
      · exact .inl ⟨_, hr, (SameButStaging.refl s).answer _⟩
      · exact .inr hr
    | write =>
      refine hostWrite_cases off a.width a.data s ?_
      rintro ⟨hw, rfl⟩
      obtain ⟨k, w, addr, v⟩ := a
      simp only at ho hk hw
      subst hk hw
      simp [cmdWordOf, ho] at h

/-- A CMD write is Command(v) (20_memory.md R43, R44). -/
theorem hostAccess_cmd {a : Access} {s : State} {v : Word} (h : cmdWordOf s.page (some a) = some v) :
    hostAccess a s = writeDone (commandWrite v s) := by
  obtain ⟨k, w, addr, d⟩ := a
  cases k <;> cases w <;> simp [cmdWordOf] at h
  obtain ⟨ho, rfl⟩ := h
  simpa [hostAccess, ho] using hostWrite_cmd d s

/-- The host's side of a cycle that writes no command changes at most staging and the answer: a bus error too is only
an answer (60_exceptions.md R90). -/
theorem hostSide_noCommand (a : Option Access) (s : State) (h : cmdWordOf s.page a = none) :
    ∃ t, hostSide a s = .next t ∧ SameButStaging s t := by
  cases a with
  | none => exact ⟨_, rfl, (SameButStaging.refl s).answer _⟩
  | some a =>
    rcases hostAccess_cases a s h with ⟨t, ht, hs⟩ | hf
    · exact ⟨t, by simp [hostSide, ht], hs⟩
    · exact ⟨_, by simp [hostSide, hf]; rfl, (SameButStaging.refl s).answer _⟩

end Sys2Proof.Machine
end

