-- ==== Sys2Proof/Laws/Commands.lean ====
section
/-! SUPPORT. Everything a command can do in its acceptance cycle (40_commands.md R62 to R66): one inversion lemma per
command, and the lemmas of Command(v). -/

namespace Sys2Proof.Machine

@[simp] theorem State.busy_eq_true (s : State) : s.busy = true ↔ s.phase ≠ .idle := by
  simp [State.busy]

@[simp] theorem State.busy_eq_false (s : State) : s.busy = false ↔ s.phase = .idle := by
  simp [State.busy]

/-- INIT's three outcomes (40_commands.md R62). -/
theorem execInit_cases {klen vlen : Nat} {s t : State} (h : execInit klen vlen s = .next t) :
    (klen < 32 ∧ t = s.raise .invalidKeyLength) ∨
    (32 ≤ klen ∧ vlen < 8 ∧ t = s.raise .invalidIvLength) ∨
    (32 ≤ klen ∧ 8 ≤ vlen ∧ t = s.constructInstance) := by
  unfold execInit keyTooShort ivTooShort at h
  split at h
  case isTrue hk => exact .inl ⟨by simpa using hk, by cases h; rfl⟩
  case isFalse hk =>
    split at h
    case isTrue hv => exact .inr (.inl ⟨by simpa using hk, by simpa using hv, by cases h; rfl⟩)
    case isFalse hv => exact .inr (.inr ⟨by simpa using hk, by simpa using hv, by cases h; rfl⟩)

/-- NEXT's four outcomes (40_commands.md R63). -/
theorem execNext_cases {s t : State} (h : execNext s = .next t) :
    (s.gen = .uninit ∧ t = s.clearValid.raise .notActive) ∨
    (s.gen = .exhausted ∧ t = s.clearValid.raise .outputExhausted) ∨
    (s.gen = .active ∧ s.wouldExhaust = true ∧ t = s.clearValid.exhaust.raise .outputExhausted) ∨
    (s.gen = .active ∧ s.wouldExhaust = false ∧ t = s.clearValid.startBlock) := by
  unfold execNext at h
  cases hg : s.gen <;> simp only [hg] at h
  · exact .inl ⟨rfl, by cases h; rfl⟩
  · cases hw : s.wouldExhaust <;> simp only [hw, if_true, Bool.false_eq_true, if_false] at h
    · exact .inr (.inr (.inr ⟨rfl, rfl, by cases h; rfl⟩))
    · exact .inr (.inr (.inl ⟨rfl, rfl, by cases h; rfl⟩))
  · exact .inr (.inl ⟨rfl, by cases h; rfl⟩)

/-- SETCTR's two outcomes (40_commands.md R64). -/
theorem execSetctr_cases {s t : State} (h : execSetctr s = .next t) :
    (s.gen = .active ∧ t = s.loadCounter) ∨ (s.gen ≠ .active ∧ t = s.raise .notActive) := by
  unfold execSetctr at h
  split at h
  case isTrue hg => exact .inl ⟨hg, by cases h; rfl⟩
  case isFalse hg => exact .inr ⟨hg, by cases h; rfl⟩

/-- Command(v) while BUSY = 1 (40_commands.md R66). -/
theorem commandWrite_busy (v : Word) (s : State) (h : s.busy = true) : commandWrite v s = .next s.discard := by
  simp [commandWrite, h]

/-- Command(v) of a word the decoder admits (20_memory.md R44). -/
theorem commandWrite_command {v : Word} {i : Instr} {s : State} (h : s.busy = false) (hd : decode v = .command i) :
    commandWrite v s = exec i s.accept := by
  simp [commandWrite, h, hd]

/-- Command(v) of an illegal word (40_commands.md R65). -/
theorem commandWrite_illegal {v : Word} {why : IllegalWord} {s : State} (h : s.busy = false)
    (hd : decode v = .illegal why) : commandWrite v s = .next (illegalCommand s.accept) := by
  simp [commandWrite, h, hd]

/-- No command ends in a fault (60_exceptions.md R87, R92). -/
theorem exec_ne_fault (i : Instr) (s : State) (f : Fault) : exec i s ≠ .fault f := by
  cases i with
  | init klen vlen => simp only [exec, execInit]; repeat' split; all_goals simp
  | next => simp only [exec, execNext]; repeat' split; all_goals simp
  | setctr => simp only [exec, execSetctr]; split <;> simp

/-- No command is refused. -/
theorem exec_ne_refused (i : Instr) (s : State) (r : Refusal) : exec i s ≠ .refused r := by
  cases i with
  | init klen vlen => simp only [exec, execInit]; repeat' split; all_goals simp
  | next => simp only [exec, execNext]; repeat' split; all_goals simp
  | setctr => simp only [exec, execSetctr]; split <;> simp

/-- The pending inputs, the answer and CORE_BASE are the environment's: no command writes them. -/
theorem exec_environment {i : Instr} {s t : State} (h : exec i s = .next t) :
    t.inputs = s.inputs ∧ t.page = s.page ∧ t.response = s.response ∧ t.draws = s.draws := by
  cases i with
  | init klen vlen => rcases execInit_cases h with ⟨-, rfl⟩ | ⟨-, -, rfl⟩ | ⟨-, -, rfl⟩ <;> simp
  | next =>
    rcases execNext_cases h with ⟨-, rfl⟩ | ⟨-, rfl⟩ | ⟨-, -, rfl⟩ | ⟨-, -, rfl⟩ <;> simp
  | setctr => rcases execSetctr_cases h with ⟨-, rfl⟩ | ⟨-, rfl⟩ <;> simp

/-- No command writes a staging register or, OVR being the acceptance step's, OVR (10_state.md R23, R30). -/
theorem exec_keeps_staging {i : Instr} {s t : State} (h : exec i s = .next t) :
    t.keystg = s.keystg ∧ t.ivstg = s.ivstg ∧ t.ctrstg = s.ctrstg ∧ t.ovr = s.ovr := by
  cases i with
  | init klen vlen => rcases execInit_cases h with ⟨-, rfl⟩ | ⟨-, -, rfl⟩ | ⟨-, -, rfl⟩ <;> simp
  | next =>
    rcases execNext_cases h with ⟨-, rfl⟩ | ⟨-, rfl⟩ | ⟨-, -, rfl⟩ | ⟨-, -, rfl⟩ <;> simp
  | setctr => rcases execSetctr_cases h with ⟨-, rfl⟩ | ⟨-, rfl⟩ <;> simp

/-- No command reads the pending inputs: they are the environment's. -/
theorem exec_withInputs {i : Instr} {s t : State} (h : exec i s = .next t) (inp : List CycleInput) :
    exec i { s with inputs := inp } = .next { t with inputs := inp } := by
  cases i with
  | init klen vlen =>
    rcases execInit_cases h with ⟨hk, rfl⟩ | ⟨hk, hv, rfl⟩ | ⟨hk, hv, rfl⟩
    · simp [exec, execInit, keyTooShort, hk, State.raise]
    · simp [exec, execInit, keyTooShort, ivTooShort, Nat.not_lt.2 hk, hv, State.raise]
    · simp [exec, execInit, keyTooShort, ivTooShort, Nat.not_lt.2 hk, Nat.not_lt.2 hv, State.constructInstance,
        State.stagedKey, State.stagedNonce]
  | next =>
    have hw : State.wouldExhaust { s with inputs := inp } = s.wouldExhaust := rfl
    rcases execNext_cases h with ⟨hg, rfl⟩ | ⟨hg, rfl⟩ | ⟨hg, he, rfl⟩ | ⟨hg, he, rfl⟩
    · simp [exec, execNext, hg, State.raise, State.clearValid]
    · simp [exec, execNext, hg, State.raise, State.clearValid]
    · rw [he, hg] at hw
      simp [exec, execNext, hg, hw, State.raise, State.clearValid, State.exhaust]
    · rw [he, hg] at hw
      simp [exec, execNext, hg, hw, State.clearValid, State.startBlock, State.S]
  | setctr =>
    rcases execSetctr_cases h with ⟨hg, rfl⟩ | ⟨hg, rfl⟩
    · simp [exec, execSetctr, hg, State.loadCounter, State.stagedCtrLo, State.stagedCtrHi]
    · simp [exec, execSetctr, hg, State.raise]

/-- The counter as a number: the high word weighs 2^32 (10_state.md R16). -/
theorem State.counter_toNat (s : State) : s.counter.toNat = s.ctrHi.toNat * 4294967296 + s.ctrLo.toNat := by
  refine (BitVec.toNat_append s.ctrHi s.ctrLo).trans ?_
  rw [← Nat.shiftLeft_add_eq_or_of_lt s.ctrLo.isLt, Nat.shiftLeft_eq]

/-- The counter depends on its two words only (10_state.md R16). -/
theorem State.counter_congr {s t : State} (hl : t.ctrLo = s.ctrLo) (hh : t.ctrHi = s.ctrHi) :
    t.counter = s.counter := by
  rw [State.counter, State.counter, hl, hh]

/-- Equal counters have equal words. -/
theorem State.words_of_counter {s t : State} (h : t.counter = s.counter) : t.ctrLo = s.ctrLo ∧ t.ctrHi = s.ctrHi := by
  have hs := State.counter_toNat s
  have ht := State.counter_toNat t
  have hsl := s.ctrLo.isLt
  have htl := t.ctrLo.isLt
  rw [h] at ht
  exact ⟨BitVec.eq_of_toNat_eq (by omega), BitVec.eq_of_toNat_eq (by omega)⟩

/-- S depends on the key, the counter and the nonce only (10_state.md R13). -/
theorem State.S_congr {s t : State} (hk : t.key = s.key) (hc : t.counter = s.counter) (hn : t.nonce = s.nonce) :
    t.S = s.S := by
  obtain ⟨hl, hh⟩ := State.words_of_counter hc
  rw [State.S, State.S, hk, hn, hl, hh]

/-- WouldExhaust(C) is C = 2^64 - 1 (43_counter.md R84). -/
theorem State.wouldExhaust_iff (s : State) : s.wouldExhaust = true ↔ s.counter = 0xFFFFFFFFFFFFFFFF := by
  have hl := s.ctrLo.isLt
  have hh := s.ctrHi.isLt
  have hc := s.counter_toNat
  have hw : (0xFFFFFFFF : Word).toNat = 4294967295 := rfl
  have hd : (0xFFFFFFFFFFFFFFFF : DWord).toNat = 18446744073709551615 := rfl
  simp only [State.wouldExhaust, decide_eq_true_eq, ← BitVec.toNat_inj, hc, hw, hd]
  omega

end Sys2Proof.Machine
end

