-- ==== Sys2Proof/Laws/Decode.lean ====
section
/-! SUPPORT. The five fields of a command word and the word they make up undo each other (30_encoding.md R53). -/

namespace Sys2Proof.CmdWord

/-- Bit `i` of a word by the field it falls in (30_encoding.md R53). -/
theorem getLsbD_ofFields (r1 v k : Byte) (r0 o : BitVec 4) (i : Nat) :
    (ofFields r1 v k r0 o).getLsbD i =
      if i < 4 then o.getLsbD i else if i < 8 then r0.getLsbD (i - 4) else if i < 16 then k.getLsbD (i - 8)
      else if i < 24 then v.getLsbD (i - 16) else r1.getLsbD (i - 24) := by
  unfold ofFields
  simp only [BitVec.getLsbD_append]
  repeat' split
  all_goals first | rfl | omega

@[simp] theorem op_ofFields (r1 v k : Byte) (r0 o : BitVec 4) : op (ofFields r1 v k r0 o) = o := by
  apply BitVec.eq_of_getLsbD_eq
  intro i hi
  simp only [op, BitVec.getLsbD_extractLsb', getLsbD_ofFields, hi, decide_true, Bool.true_and]
  repeat' split
  all_goals first | omega | (congr 1; omega)

@[simp] theorem res0_ofFields (r1 v k : Byte) (r0 o : BitVec 4) : res0 (ofFields r1 v k r0 o) = r0 := by
  apply BitVec.eq_of_getLsbD_eq
  intro i hi
  simp only [res0, BitVec.getLsbD_extractLsb', getLsbD_ofFields, hi, decide_true, Bool.true_and]
  repeat' split
  all_goals first | omega | (congr 1; omega)

@[simp] theorem klen_ofFields (r1 v k : Byte) (r0 o : BitVec 4) : klen (ofFields r1 v k r0 o) = k := by
  apply BitVec.eq_of_getLsbD_eq
  intro i hi
  simp only [klen, BitVec.getLsbD_extractLsb', getLsbD_ofFields, hi, decide_true, Bool.true_and]
  repeat' split
  all_goals first | omega | (congr 1; omega)

@[simp] theorem vlen_ofFields (r1 v k : Byte) (r0 o : BitVec 4) : vlen (ofFields r1 v k r0 o) = v := by
  apply BitVec.eq_of_getLsbD_eq
  intro i hi
  simp only [vlen, BitVec.getLsbD_extractLsb', getLsbD_ofFields, hi, decide_true, Bool.true_and]
  repeat' split
  all_goals first | omega | (congr 1; omega)

@[simp] theorem res1_ofFields (r1 v k : Byte) (r0 o : BitVec 4) : res1 (ofFields r1 v k r0 o) = r1 := by
  apply BitVec.eq_of_getLsbD_eq
  intro i hi
  simp only [res1, BitVec.getLsbD_extractLsb', getLsbD_ofFields, hi, decide_true, Bool.true_and]
  repeat' split
  all_goals first | omega | (congr 1; omega)

/-- A word is made up of its fields. -/
theorem ofFields_fields (w : Word) : ofFields (res1 w) (vlen w) (klen w) (res0 w) (op w) = w := by
  apply BitVec.eq_of_getLsbD_eq
  intro i hi
  simp only [getLsbD_ofFields, op, res0, klen, vlen, res1, BitVec.getLsbD_extractLsb']
  split
  · simp_all
  split
  · have : 4 + (i - 4) = i := by omega
    have : i - 4 < 4 := by omega
    simp_all
  split
  · have : 8 + (i - 8) = i := by omega
    have : i - 8 < 8 := by omega
    simp_all
  split
  · have : 16 + (i - 16) = i := by omega
    have : i - 16 < 8 := by omega
    simp_all
  · have : 24 + (i - 24) = i := by omega
    have : i - 24 < 8 := by omega
    simp_all

/-- Two words with the same fields are the same word. -/
theorem ext_fields {w w' : Word} (h1 : res1 w = res1 w') (hv : vlen w = vlen w') (hk : klen w = klen w')
    (h0 : res0 w = res0 w') (ho : op w = op w') : w = w' := by
  rw [← ofFields_fields w, ← ofFields_fields w', h1, hv, hk, h0, ho]

end Sys2Proof.CmdWord
end

