-- ==== Sys2Proof/Laws/Step.lean ====
section
/-! SUPPORT. What one step can do, said once (70_reset_and_hazards.md R101, R104): reset, a cycle with no command, a
discarded command, an accepted command, an illegal word. Every claim about all steps is a case analysis over
`step_cases`. -/

namespace Sys2Proof.Machine

/-- While PHASE = IDLE no sequencer step runs (60_exceptions.md R100). -/
theorem State.sequencerStep_idle {s : State} (h : s.phase = .idle) : s.sequencerStep = s := by
  simp [State.sequencerStep, h]

theorem State.sequencerStep_round {s : State} (h : s.phase = .round) : s.sequencerStep = s.roundStep := by
  simp [State.sequencerStep, h]

theorem State.sequencerStep_final {s : State} (h : s.phase = .final) : s.sequencerStep = s.finalStep := by
  simp [State.sequencerStep, h]

/-- The sequencer reads nothing that the host's side of a busy cycle writes (70_reset_and_hazards.md R104), nor the
pending inputs. -/
theorem State.sequencerStep_withHost (s : State) (ks : Vector Byte 32) (is cs : Vector Byte 8) (o : Bool)
    (inp : List CycleInput) (r : Response) :
    State.sequencerStep { s with keystg := ks, ivstg := is, ctrstg := cs, ovr := o, inputs := inp, response := r } =
      { s.sequencerStep with keystg := ks, ivstg := is, ctrstg := cs, ovr := o, inputs := inp, response := r } := by
  obtain ⟨u, hu⟩ : ∃ u : State,
      u = { s with keystg := ks, ivstg := is, ctrstg := cs, ovr := o, inputs := inp, response := r } := ⟨_, rfl⟩
  rw [← hu]
  have hp : u.phase = s.phase := by rw [hu]
  have hq : u.q = s.q := by rw [hu]
  obtain h | h | h : s.phase = .idle ∨ s.phase = .round ∨ s.phase = .final := by cases s.phase <;> simp
  · rw [State.sequencerStep_idle h, State.sequencerStep_idle (hp.trans h), hu]
  · rw [State.sequencerStep_round h, State.sequencerStep_round (hp.trans h)]
    by_cases h79 : s.q = 79
    · rw [State.roundStep_last h79, State.roundStep_last (hq.trans h79), hu]
    · rw [State.roundStep_notLast h79, State.roundStep_notLast (hq ▸ h79), hu]
  · rw [State.sequencerStep_final h, State.sequencerStep_final (hp.trans h), hu]
    rfl

/-- While PHASE ≠ IDLE, both sides' writes together are the sequencer's step with the host's staging bytes, OVR and
answer. -/
theorem State.land_busy {s h : State} (hb : s.phase ≠ .idle) :
    s.land h = { s.sequencerStep with
      keystg := h.keystg, ivstg := h.ivstg, ctrstg := h.ctrstg, ovr := h.ovr, response := h.response } := by
  simp [State.land, hb]

theorem State.land_idle {s h : State} (hb : s.phase = .idle) : s.land h = h := by
  simp [State.land, hb]

/-- A cycle whose access writes no command: the sequencer's step, and at most staging and the answer beside it. -/
theorem State.land_sameButStaging {s h : State} (hs : SameButStaging s h) : SameButStaging s.sequencerStep (s.land h) := by
  obtain ⟨ks, is, cs, r, rfl⟩ := hs
  by_cases hb : s.phase = .idle
  · rw [State.land_idle hb, State.sequencerStep_idle hb]
    exact ⟨ks, is, cs, r, rfl⟩
  · rw [State.land_busy hb]
    refine ⟨ks, is, cs, r, ?_⟩
    have := State.sequencerStep_ovr s
    simp only [← this]

/-- The present cycle's input is the head of the pending ones. -/
theorem State.nextInput_cons {s : State} {c : CycleInput} {rest : List CycleInput} (h : s.inputs = c :: rest) :
    s.nextInput = c := by
  simp [State.nextInput, h]

/-- A cycle whose access is `wr32 0x30, w` writes `w` to CMD. -/
theorem State.cmdWrite_cmd {s : State} {w : Word} {rest : List CycleInput}
    (h : s.inputs = .ofAccess (.cmd s.page w) :: rest) : s.cmdWrite = some w := by
  have ho : offsetOf s.page (coreBase s.page + 0x30) = some 0x30 := offsetOf_coreBase_add s.page 0x30 (by decide)
  simp only [State.cmdWrite, State.nextInput_cons h]
  simp [CycleInput.ofAccess, Access.cmd, Access.wr32, cmdWordOf, ho]

/-- The cycle that writes `w` to CMD: the host's side is Command(w), answered `done`. -/
theorem step_of_cmd {s u : State} {w : Word} {rest : List CycleInput}
    (h : s.inputs = .ofAccess (.cmd s.page w) :: rest) (hu : commandWrite w s = .next u) :
    step s = .next (s.land { u with response := .done }).consumeInput := by
  have ho : offsetOf s.page (coreBase s.page + 0x30) = some 0x30 := offsetOf_coreBase_add s.page 0x30 (by decide)
  have hw : cmdWordOf s.page (some (.cmd s.page w)) = some w := by
    simp [Access.cmd, Access.wr32, cmdWordOf, ho]
  simp [step, cycle, State.nextInput_cons h, CycleInput.ofAccess, hostSide, hostAccess_cmd hw, hu, writeDone]

/-- A cycle that writes a word to the staging registers of an idle CORE (20_memory.md R43). -/
theorem step_of_stagingWrite {s : State} {off : Nat} {v : Word} {rest : List CycleInput}
    (hi : s.inputs = .ofAccess (.wr32 s.page off v) :: rest) (hp : s.phase = .idle) (ho : off < 0x30)
    (h4 : off % 4 = 0) :
    step s = .next { s.storeWord (BitVec.ofNat 8 off) v with inputs := rest, response := .done } := by
  have hoff := offsetOf_coreBase_add s.page off (by omega)
  have h : hostAccess (.wr32 s.page off v) s =
      .next { s.storeWord (BitVec.ofNat 8 off) v with response := .done } := by
    simp only [hostAccess, Access.wr32, hoff]
    interval_cases off <;> first | omega | rfl
  simp only [step, cycle, State.nextInput_cons hi, CycleInput.ofAccess, hostSide, h, Bool.false_eq_true, if_false]
  rw [State.land_idle hp]
  simp [State.consumeInput, hi]

/-- A cycle without reset and without a CMD write. -/
theorem step_of_noCommand {s : State} (hr : s.nextInput.rst = false) (hc : s.cmdWrite = none) :
    ∃ u, SameButStaging s.sequencerStep u ∧ step s = .next u.consumeInput := by
  have hw : cmdWordOf s.page s.nextInput.access = none := by simpa [State.cmdWrite, hr] using hc
  obtain ⟨u, hu, hs⟩ := hostSide_noCommand _ s hw
  exact ⟨_, State.land_sameButStaging hs, by simp [step, cycle, hr, hu]⟩

/-- A cycle with RST asserted (70_reset_and_hazards.md R101). -/
theorem step_of_reset {s : State} (hr : s.nextInput.rst = true) :
    step s = .next (s.resetCycle s.nextInput.access).consumeInput := by
  simp [step, cycle, hr]

/-- What one step can do. -/
theorem step_cases {s t : State} (h : step s = .next t) :
    (s.nextInput.rst = true ∧ t = (s.resetCycle s.nextInput.access).consumeInput) ∨
    (s.nextInput.rst = false ∧ s.cmdWrite = none ∧
      ∃ u, SameButStaging s.sequencerStep u ∧ t = u.consumeInput) ∨
    (s.nextInput.rst = false ∧ s.discards ∧
      t = { s.sequencerStep with ovr := true, response := .done, inputs := s.inputs.tail }) ∨
    (∃ i u, s.nextInput.rst = false ∧ s.phase = .idle ∧ s.accepted = some (.command i) ∧ exec i s.accept = .next u ∧
      t = { u with response := .done, inputs := s.inputs.tail }) ∨
    (∃ why, s.nextInput.rst = false ∧ s.phase = .idle ∧ s.accepted = some (.illegal why) ∧
      t = { illegalCommand s.accept with response := .done, inputs := s.inputs.tail }) := by
  unfold step cycle at h
  by_cases hr : s.nextInput.rst = true
  · rw [if_pos hr] at h
    cases h
    exact .inl ⟨hr, rfl⟩
  right
  rw [if_neg hr] at h
  have hr : s.nextInput.rst = false := by simpa using hr
  have hcw : s.cmdWrite = cmdWordOf s.page s.nextInput.access := by simp [State.cmdWrite, hr]
  cases hc : cmdWordOf s.page s.nextInput.access with
  | none =>
    obtain ⟨u, hu, hs⟩ := hostSide_noCommand _ s hc
    rw [hu] at h
    cases h
    exact .inl ⟨hr, hcw.trans hc, _, State.land_sameButStaging hs, rfl⟩
  | some v =>
    right
    obtain ⟨a, ha⟩ : ∃ a, s.nextInput.access = some a := by
      cases hn : s.nextInput.access with
      | none => simp [hn, cmdWordOf] at hc
      | some a => exact ⟨a, rfl⟩
    rw [ha] at hc
    have hcw : s.cmdWrite = some v := by rw [hcw, ha, hc]
    rw [ha] at h
    simp only [hostSide, hostAccess_cmd hc] at h
    by_cases hb : s.phase = .idle
    · right
      have hb' : s.busy = false := by simpa using hb
      have hacc : s.accepted = some (decode v) := by simp [State.accepted, hb, hcw]
      cases hd : decode v with
      | command i =>
        left
        rw [commandWrite_command hb' hd] at h
        cases he : exec i s.accept with
        | next u =>
          simp only [he, writeDone] at h
          cases h
          refine ⟨i, u, hr, hb, hd ▸ hacc, he, ?_⟩
          have := (exec_environment he).1
          simp [State.land_idle hb, State.consumeInput, this]
        | fault f => exact absurd he (exec_ne_fault i _ f)
        | refused r => exact absurd he (exec_ne_refused i _ r)
      | illegal why =>
        right
        rw [commandWrite_illegal hb' hd] at h
        simp only [writeDone] at h
        cases h
        refine ⟨why, hr, hb, hd ▸ hacc, ?_⟩
        simp [State.land_idle hb, State.consumeInput, illegalCommand]
    · left
      have hb' : s.busy = true := by simpa using hb
      rw [commandWrite_busy _ _ hb'] at h
      simp only [writeDone] at h
      cases h
      refine ⟨hr, ⟨hb', by simp [hcw]⟩, ?_⟩
      rw [State.land_busy hb]
      simp [State.consumeInput]

/-! ### Runs -/

/-- `runCycles` is the run of the host's interface. -/
theorem core_run_eq (n : Nat) (s : State) : Sys2Proof.core.run n s = runCycles n s := by
  induction n generalizing s with
  | zero => rfl
  | succ n ih =>
    cases h : step s <;>
      simp only [Host.Core.run, runCycles, h, show Sys2Proof.core.step s = _ from h]
    · exact ih _
    · rfl
    · rfl

/-- The first step of a run. -/
theorem runCycles_succ {s t : State} (n : Nat) (h : step s = .next t) : runCycles (n + 1) s = runCycles n t := by
  simp [runCycles, h]

/-- A run of `m + n` cycles is a run of `m` and then one of `n`. -/
theorem runCycles_add {s t : State} (m n : Nat) (h : runCycles m s = .next t) :
    runCycles (m + n) s = runCycles n t := by
  induction m generalizing s with
  | zero =>
    cases h
    rw [Nat.zero_add]
  | succ m ih =>
    rw [Nat.add_right_comm]
    simp only [runCycles] at h ⊢
    cases hs : step s with
    | next u =>
      rw [hs] at h
      exact ih h
    | fault f => simp [hs] at h
    | refused r => simp [hs] at h

end Sys2Proof.Machine
end

