-- ==== Sys2Proof/Laws/HostProgram.lean ====
section
/-! SUPPORT. What a host's access and a host's reads do (30_encoding.md R60, R61). -/

namespace Sys2Proof.Machine.HostProgram

/-- For lengths that fit their fields, R60's expression is the command's word (30_encoding.md R53, R60). -/
theorem cmdInit_eq (page : Nat) {klen vlen : Nat} (h : (Instr.init klen vlen).WellFormed = true) :
    cmdInit page klen vlen = .cmd page (encode (.init klen vlen)) := by
  simp only [Instr.WellFormed, Bool.and_eq_true, decide_eq_true_eq] at h
  obtain ⟨hk, hv⟩ := h
  unfold cmdInit encode
  congr 1
  apply BitVec.eq_of_getLsbD_eq
  intro i hi
  rw [CmdWord.getLsbD_ofFields]
  simp only [BitVec.getLsbD_ofNat, Nat.testBit_or, Nat.testBit_shiftLeft, hi, decide_true, Bool.true_and]
  have hb : ∀ n j : Nat, n ≤ 255 → 8 ≤ j → n.testBit j = false := fun n j hn hj =>
    Nat.testBit_lt_two_pow (lt_of_le_of_lt hn (lt_of_lt_of_le (by decide : 255 < 2 ^ 8) (Nat.pow_le_pow_right (by decide) hj)))
  have h1 : ∀ j : Nat, 1 ≤ j → Nat.testBit 1 j = false := fun j hj => by
    obtain ⟨j, rfl⟩ := Nat.exists_eq_add_of_le' hj
    simp [Nat.testBit_succ]
  interval_cases i <;> simp [hb klen _ hk, hb vlen _ hv, h1]

/-- The saturated lengths fit their fields (30_encoding.md R54). -/
theorem saturate_le (len : Nat) : saturate len ≤ 255 := Nat.min_le_right _ _

/-- An admitted word read: the word shown at the start of the cycle, and the sequencer's step, if one runs, with that
answer (20_memory.md R40, R41, 70_reset_and_hazards.md R104). -/
theorem rd32_eq {s : State} {off : Nat} (ho : off < 0x100) (hr : s.nextInput.rst = false)
    (ha : admitted (BitVec.ofNat 8 off) .word .read = true) :
    rd32 off s = some (s.readWord (BitVec.ofNat 8 off),
      { s.sequencerStep with
        inputs := s.inputs.tail, response := .data32 (s.readWord (BitVec.ofNat 8 off)) }) := by
  have hoff := offsetOf_coreBase_add s.page off ho
  generalize hu : ({ s with inputs := ⟨s.nextInput.rst, some (.rd32 s.page off)⟩ :: s.inputs.tail } : State) = u
  have hw : u.readWord (BitVec.ofNat 8 off) = s.readWord (BitVec.ofNat 8 off) := by subst hu; rfl
  have hrd : hostAccess (.rd32 s.page off) u =
      .next { u with response := .data32 (s.readWord (BitVec.ofNat 8 off)) } := by
    have hpg : u.page = s.page := by subst hu; rfl
    simp only [hostAccess, Access.rd32, hpg, hoff, hostRead, ha, if_true, hw]
  have hc : cycle u = .next (u.land { u with response := .data32 (s.readWord (BitVec.ofNat 8 off)) }).consumeInput := by
    have hn : u.nextInput = ⟨false, some (.rd32 s.page off)⟩ := by
      subst hu
      rw [State.nextInput_cons rfl, hr]
    simp only [cycle, hn, hostSide, hrd, Bool.false_eq_true, if_false]
  have hl : (u.land { u with response := .data32 (s.readWord (BitVec.ofNat 8 off)) }).consumeInput =
      { s.sequencerStep with
        inputs := s.inputs.tail, response := .data32 (s.readWord (BitVec.ofNat 8 off)) } := by
    have hs := State.sequencerStep_withHost s s.keystg s.ivstg s.ctrstg s.ovr
      (⟨s.nextInput.rst, some (.rd32 s.page off)⟩ :: s.inputs.tail) s.response
    by_cases hp : s.phase = .idle
    · rw [State.land_idle (by subst hu; exact hp), State.sequencerStep_idle hp]
      subst hu
      rfl
    · rw [State.land_busy (by subst hu; exact hp)]
      subst hu
      rw [hs]
      simp [State.consumeInput]
  unfold rd32 issue
  rw [hu, hc, hl]

end Sys2Proof.Machine.HostProgram
end

