-- ==== Sys2Proof/Laws/PerInstr.lean ====
section
/-! SUPPORT. What holds of every command as syntax, one lemma per constructor. -/

/-- The encoder's word lies in its row of the table: under the row's mask it is the row's match
(30_encoding.md R55). -/
def Sys2Proof.Laws.EncodingRow.Statement (i : Sys2Proof.Instr) : Prop :=
  Sys2Proof.encode i &&& Sys2Proof.rowMask i = Sys2Proof.rowMatch i

namespace Sys2Proof.Laws.EncodingRow

theorem init (klen vlen : Nat) : Statement (.init klen vlen) := by
  unfold Statement encode rowMask rowMatch
  apply BitVec.eq_of_getLsbD_eq
  intro i hi
  simp only [BitVec.getLsbD_and, CmdWord.getLsbD_ofFields]
  interval_cases i <;> simp

theorem next : Statement .next := by unfold Statement; decide

theorem setctr : Statement .setctr := by unfold Statement; decide

end Sys2Proof.Laws.EncodingRow
end

