-- ==== Sys2Proof/Tests/Slice0.lean ====
section
/-! SUPPORT. Tests on fixed values, and for every obligation with hypotheses a witness that meets them. The expected
values are those of 95_test_vectors.md (V-… names) or of the rule cited; none is the model's own answer. -/

open Sys2Proof Sys2Proof.Machine

namespace Sys2Proof.Tests

/-! ### Well-formedness: each check refuses an ill-formed term -/

theorem test_wellFormed_klen : (Instr.init 256 8).WellFormed = false := by decide
theorem test_wellFormed_vlen : (Instr.init 32 256).WellFormed = false := by decide
theorem test_wellFormed_saturated : (Instr.init 255 255).WellFormed = true := by decide

/-! ### Decoding: V-DEC, and two words written out bit by bit from 30_encoding.md R53 -/

theorem test_decode_init : decode 0x00082001 = .command (.init 32 8) := by decide
theorem test_decode_init_shortKey : decode 0x00081F01 = .command (.init 31 8) := by decide
theorem test_decode_init_saturated : decode 0x00FFFF01 = .command (.init 255 255) := by decide
/-- RES1 = 0, VLEN = 7, KLEN = 32, RES0 = 0, OP = 1. -/
theorem test_decode_init_bits : decode 0b00000000_00000111_00100000_0000_0001 = .command (.init 32 7) := by decide
theorem test_decode_next : decode 0b00000000_00000000_00000000_0000_0010 = .command .next := by decide
theorem test_decode_setctr : decode 0b00000000_00000000_00000000_0000_0011 = .command .setctr := by decide
theorem test_decode_zero : decode 0x00000000 = .illegal .operation := by decide
theorem test_decode_res1 : decode 0xFFFFFF01 = .illegal .reservedBits := by decide
theorem test_decode_res0 : decode 0x00082011 = .illegal .reservedBits := by decide
theorem test_decode_next_klen : decode 0x00000102 = .illegal .operandBits := by decide
theorem test_encode_init : encode (.init 32 8) = 0x00082001 := by decide
theorem test_tableWord : decodeTableWord 32 0x00000003 = some .setctr := by decide

/-- R60's own example of construct, then a KLEN of nine bits, which R60's shifts carry into VLEN (log entry 28). -/
theorem test_cmdInit :
    HostProgram.cmdInit 0 32 8 = .cmd 0 0x00082001 ∧ HostProgram.cmdInit 0 0x100 8 = .cmd 0 0x00090001 := by decide

/-! ### Small states and how the tests look at a step -/

/-- A value of the state a step answers; none where it answers none. -/
def onNext {α : Type} (f : State → α) : Host.Outcome State Fault Refusal → Option α
  | .next s => some (f s)
  | .fault _ => none
  | .refused _ => none

/-- What one step on the command word `w` leaves, seen through `f`. -/
def run1 {α : Type} (f : State → α) (w : Nat) (s : State) : Option α := onNext f (step (s.withFetchWord 32 w))

/-- `s` with these inputs. -/
def given (inps : List CycleInput) (s : State) : State := { s with inputs := inps }

/-- An Active, idle CORE with the zero key and nonce and counter `c`. -/
def activeAt (c : DWord) : State := { State.reset.withCounter c with gen := .active }

/-- An Exhausted CORE. -/
def exhausted : State := { State.reset with gen := .exhausted }

/-- Staging as program P2 writes it: KEYSTG[k] = k, IVSTG[k] = k. -/
def stagedP2 : State :=
  { State.reset with
    keystg := Vector.ofFn fun i => BitVec.ofNat 8 i.val, ivstg := Vector.ofFn fun i => BitVec.ofNat 8 i.val }

/-- CORE with counter 5 in the block's ROUND step `q`, as a NEXT of `activeAt 5` leaves it. -/
def roundAt (q : Nat) : State :=
  { activeAt 5 with
    phase := .round, q := BitVec.ofNat 7 q, x := quarterRoundsFrom (activeAt 5).S q }

/-- X when the block for counter `c` of the zero key and nonce is mixed. -/
def mixedAt (c : DWord) : Vector Word 16 := quarterRoundsFrom (activeAt c).S 80

/-- CORE with counter `c` in its FINAL cycle. -/
def finalAt (c : DWord) : State := { activeAt c with phase := .final, x := mixedAt c }

/-! ### The commands: V-CMD -/

theorem test_init_status : run1 State.statusWord 0x00FFFF01 State.reset = some 0x00000001 := by decide +kernel
/-- V-BLK-3's initial state. -/
theorem test_init_state :
    run1 State.S 0x00082001 stagedP2 =
      some #v[0x61707865, 0x3320646e, 0x79622d32, 0x6b206574, 0x03020100, 0x07060504, 0x0b0a0908, 0x0f0e0d0c,
        0x13121110, 0x17161514, 0x1b1a1918, 0x1f1e1d1c, 0, 0, 0x03020100, 0x07060504] := by decide +kernel
/-- V-CMD-4: the key check comes first. -/
theorem test_init_keyFirst : run1 State.statusWord 0x00071F01 State.reset = some 0x00000100 := by decide +kernel
/-- V-CMD-8, and the counter is still 5. -/
theorem test_next_starts :
    run1 (fun t => (t.statusWord, t.counter)) 0x00000002 (activeAt 5) = some (0x00000005, 5) := by decide +kernel
/-- V-CMD-12. -/
theorem test_next_exhausts :
    run1 (fun t => (t.statusWord, t.counter)) 0x00000002 { activeAt 0xFFFFFFFFFFFFFFFF with valid := true } =
      some (0x00000302, 0) := by decide +kernel
/-- P2 lines 14 to 17. -/
theorem test_setctr :
    run1 (fun t => (t.statusWord, t.ctrLo, t.ctrHi)) 0x00000003
      { activeAt 1 with valid := true, ctrstg := #v[0xff, 0xff, 0xff, 0xff, 0x01, 0, 0, 0] } =
      some (0x00000009, 0xFFFFFFFF, 0x00000001) := by decide +kernel
/-- V-CMD-14. -/
theorem test_setctr_exhausted : run1 State.statusWord 0x00000003 exhausted = some 0x00000502 := by decide +kernel
/-- V-CMD-17. -/
theorem test_illegal :
    run1 State.statusWord 0x00000004 { activeAt 5 with ovr := true, valid := true } = some 0x00000409 := by
  decide +kernel
/-- V-CMD-16. -/
theorem test_busy :
    onNext (fun t => (t.statusWord, t.q.toNat))
      (step (given [.ofAccess (.cmd 0 0x00000002)] { activeAt 5 with phase := .round, q := 7 })) =
      some (0x00010005, 8) := by decide +kernel

/-! ### The ALU, the sequencer, the counter and the block: V-ALU, V-QR, V-SEQ, V-CTR, V-BLK -/

theorem test_rotl : rotl32 0x12345678 7 = 0x1a2b3c09 := by decide
theorem test_quarterRound :
    qr ⟨0x00000001, 0, 0, 0⟩ = ⟨0x10000001, 0x80808808, 0x01010110, 0x01000110⟩ := by decide +kernel
/-- V-SEQ-4: the first double round of the zero key. -/
theorem test_doubleRound :
    quarterRoundsFrom State.reset.S 8 =
      #v[0xe45fd249, 0x1bb820a6, 0xe31a88ea, 0xe667a9fe, 0x2a3bf673, 0x86bf4098, 0x460b500a, 0xfa169886,
        0x538dca0e, 0x0c439641, 0x00fa16bc, 0x8a08812a, 0x6bbf8b09, 0xc33013d6, 0xbb9f9849, 0x87c62165] := by
  decide +kernel
/-- V-BLK-1. -/
theorem test_block :
    block State.reset.S =
      #v[0xade0b876, 0x903df1a0, 0xe56a5d40, 0x28bd8653, 0xb819d2bd, 0x1aed8da0, 0xccef36a8, 0xc70d778b,
        0x7c5941da, 0x8d485751, 0x3fe02477, 0x374ad8b8, 0xf4b8436a, 0x1ca11815, 0x69b687c3, 0x8665eeb2] := by
  decide +kernel
/-- V-BLK-1's bytes OUT[0..7]. -/
theorem test_serialize :
    (serialize (((Vector.replicate 16 0).set 0 0xade0b876).set 1 0x903df1a0)).take 8 =
      #v[0x76, 0xb8, 0xe0, 0xad, 0xa0, 0xf1, 0x3d, 0x90] := by decide +kernel
theorem test_counter_carry : (activeAt 0x00000000FFFFFFFF).counterIncrement.counter = 0x0000000100000000 := by
  decide +kernel
theorem test_counter_last : (activeAt 0xFFFFFFFFFFFFFFFE).counterIncrement.counter = 0xFFFFFFFFFFFFFFFF := by
  decide +kernel
/-- 42_round_sequencer.md R77: OUT word 0 of the zero key from the mixed word of V-SEQ-6. -/
theorem test_final :
    onNext (fun t => (t.out[0], t.out[3], t.statusWord, t.counter))
      (step { activeAt 0 with phase := .final, x := (Vector.replicate 16 0).set 0 0x4c704011 }) =
      some (0x76, 0xad, 0x00000009, 1) := by decide +kernel

/-! ### The window: V-BUS, V-RST -/

/-- What the answer to one access at offset `off` of an idle CORE holding V-BLK-1's first word is. -/
def answerTo (a : Access) : Option Response :=
  onNext State.response
    (step (given [.ofAccess a]
      { activeAt 5 with out := serialize ((Vector.replicate 16 0).set 0 0xade0b876), keystg := Vector.replicate 32 7 }))

theorem test_bus_admitted :
    answerTo (.rd32 0 0x00) = some (.data32 0) ∧ answerTo (.rd8 0 0x20) = some (.data8 0) ∧
    answerTo (.rd32 0 0x30) = some (.data32 0) ∧ answerTo (.rd8 0 0x40) = some (.data8 0x76) ∧
    answerTo (.rd32 0 0x40) = some (.data32 0xade0b876) := by decide +kernel
theorem test_bus_errors :
    answerTo (.rd8 0 0x30) = some (.fault .busError) ∧ answerTo (.wr8 0 0x30 2) = some (.fault .busError) ∧
    answerTo (.wr32 0 0x34 0) = some (.fault .busError) ∧ answerTo (.wr8 0 0x40 0) = some (.fault .busError) ∧
    answerTo (.rd32 0 0x41) = some (.fault .busError) ∧ answerTo (.wr32 0 0x22 0) = some (.fault .busError) ∧
    answerTo (.rd32 0 0x38) = some (.fault .busError) ∧ answerTo (.rd8 0 0xFF) = some (.fault .busError) ∧
    answerTo ⟨.read, .other 16, 0x40, 0⟩ = some (.fault .busError) := by decide +kernel
/-- V-BUS-16. -/
theorem test_bus_storeWord :
    onNext (fun t => t.keystg.take 4) (step (given [.ofAccess (.wr32 0 0x00 0x03020100)] State.reset)) =
      some #v[0x00, 0x01, 0x02, 0x03] := by decide +kernel
/-- V-BUS-17. -/
theorem test_bus_storeByte :
    onNext State.ctrstg (step (given [.ofAccess (.wr8 0 0x2B 0xAA)] State.reset)) =
      some #v[0, 0, 0, 0xAA, 0, 0, 0, 0] := by decide +kernel
/-- V-RST-2: reset during a block, with a command in the same cycle that does nothing. -/
theorem test_reset :
    onNext (fun t => (t.statusWord, t.S, t.out, t.ovr))
      (step (given [⟨true, some (.cmd 0 0x00082001)⟩] { finalAt 5 with ovr := true })) =
      some (0x00000000, State.reset.S, Vector.replicate 64 0, false) := by decide +kernel

/-- 30_encoding.md R61: poll in the FINAL cycle reads BUSY = 1 once, then STATUS = 0x00000009. -/
theorem test_poll :
    let s := { activeAt 0 with phase := .final, x := Vector.replicate 16 0 }
    HostProgram.poll 1 s = none ∧ (HostProgram.poll 2 s).map Prod.fst = some 0x00000009 := by decide +kernel

/-! ### Witnesses: the hypotheses of every obligation are met together, at the ends of the ranges of its clauses -/

theorem witness_DecodeOfEncode :
    (Instr.init 255 255).WellFormed = true ∧ Instr.next.WellFormed = true ∧ Instr.setctr.WellFormed = true := by decide
theorem witness_EncodeOfDecode :
    decode 0x00FFFF01 = .command (.init 255 255) ∧ decode 0x00000003 = .command .setctr := by decide
theorem witness_DecodeFollowsTable :
    (0x00FFFF01 : Word) &&& 0xFF0000FF = 0x00000001 ∧
    ((0x00000004 : Word) &&& 0xFF0000FF ≠ 0x00000001 ∧ (0x00000004 : Word) ≠ 0x00000002 ∧
      (0x00000004 : Word) ≠ 0x00000003) := by decide
theorem witness_IllegalWordEffect :
    decode 0x80000002 = .illegal .reservedBits ∧ (activeAt 5).busy = false := by decide

/-- An Active, idle CORE to which the host writes the command word `w` in this cycle. -/
def commanded (w : Word) : State := given [.ofAccess (.cmd 0 w)] (activeAt 5)

theorem witness_StepRunsDecodedCommand :
    (commanded 2).inputs = .ofAccess (.cmd (commanded 2).page 2) :: [] ∧ (commanded 2).busy = false ∧
    decode 2 = .command .next ∧ (∃ t, exec .next { commanded 2 with ovr := false } = .next t) ∧
    (commanded 4).inputs = .ofAccess (.cmd (commanded 4).page 4) :: [] ∧ (commanded 4).busy = false ∧
    decode 4 = .illegal .operation := by
  refine ⟨rfl, rfl, by decide, ⟨_, rfl⟩, rfl, rfl, by decide⟩
theorem witness_StepRunsFetchedWord :
    decodeTableWord 32 0x00FFFF01 = some (.init 255 255) ∧
    ∃ t, exec (.init 255 255) { finalAt 5 with phase := .idle, ovr := false } = .next t := ⟨by decide, _, rfl⟩

theorem counter_withCounter (c : DWord) (s : State) : (s.withCounter c).counter = c := by
  apply BitVec.eq_of_getLsbD_eq
  intro i hi
  simp only [State.counter, State.withCounter, BitVec.getLsbD_append, BitVec.getLsbD_extractLsb']
  by_cases h : i < 32
  · simp [h]
  · simp [h, show 32 + (i - 32) = i by omega, show i - 32 < 32 by omega]

/-- A FINAL cycle meets the invariant, for every counter a block can have. -/
theorem witness_inv (c : DWord) (h : c ≠ 0xFFFFFFFFFFFFFFFF) : (finalAt c).Inv := by
  have hS : (activeAt c).S = (finalAt c).S := State.S_congr rfl (State.counter_congr rfl rfl) rfl
  have hx : (finalAt c).x = mixedAt c := rfl
  have hlo : (finalAt c).ctrLo = c.extractLsb' 0 32 := rfl
  have hhi : (finalAt c).ctrHi = c.extractLsb' 32 32 := rfl
  have hc : (finalAt c).counter = c := by rw [State.counter, hlo, hhi]; exact counter_withCounter c State.reset
  exact
    { indexInRange := by intro h; cases h
      mixing := by intro h; cases h
      mixed := fun _ => (hx.trans (by rw [mixedAt, hS]))
      running := fun _ => ⟨rfl, by rw [hc]; exact h, rfl, rfl⟩
      untouched := by intro h; cases h
      exhausted := by intro h; cases h
      outOwn := .inl rfl
      validBlock := by intro h; cases h }

theorem witness_RunsAreSafe : (finalAt 5).Inv := witness_inv 5 (by decide)
theorem witness_InitResult :
    (activeAt 5).busy = false ∧ (0x00FFFF01 : Word) &&& 0xFF0000FF = 0x00000001 ∧ 31 < 32 ∧ (32 ≤ 32 ∧ 7 < 8) ∧
    (32 ≤ 32 ∧ 8 ≤ 8) := by decide
theorem witness_NextResult :
    State.reset.busy = false ∧ State.reset.gen = .uninit ∧ exhausted.gen = .exhausted ∧
    ((activeAt 0xFFFFFFFFFFFFFFFF).gen = .active ∧ (activeAt 0xFFFFFFFFFFFFFFFF).counter = 0xFFFFFFFFFFFFFFFF) ∧
    ((activeAt 0xFFFFFFFFFFFFFFFE).gen = .active ∧ (activeAt 0xFFFFFFFFFFFFFFFE).counter ≠ 0xFFFFFFFFFFFFFFFF) := by
  decide
theorem witness_SetctrResult :
    (activeAt 5).busy = false ∧ State.reset.gen ≠ .active ∧ exhausted.gen ≠ .active ∧ (activeAt 5).gen = .active := by
  decide
theorem witness_BusyCommandDiscarded :
    (finalAt 5).busy = true ∧ (given [.ofAccess (.cmd 0 2)] (roundAt 79)).busy = true ∧
    (given [.ofAccess (.cmd 0 2)] (roundAt 79)).inputs =
      .ofAccess (.cmd (given [.ofAccess (.cmd 0 2)] (roundAt 79)).page 2) :: [] := ⟨rfl, rfl, rfl⟩
theorem witness_CommandFrames :
    (∃ t, exec (.init 32 8) stagedP2 = .next t) ∧ (∃ t, exec .next (activeAt 5) = .next t) ∧
    ∃ t, exec .setctr (activeAt 5) = .next t := ⟨⟨_, rfl⟩, ⟨_, rfl⟩, ⟨_, rfl⟩⟩
theorem witness_ExhaustedIsTerminal :
    (given [.ofAccess (.cmd 0 2)] exhausted).gen = .exhausted ∧ (given [.ofAccess (.cmd 0 2)] exhausted).phase = .idle ∧
    ∃ t, step (given [.ofAccess (.cmd 0 2)] exhausted) = .next t := ⟨rfl, rfl, _, rfl⟩
theorem witness_RotationMovesBits : (1 ≤ 1 ∧ 1 ≤ 31 ∧ 0 < 32) ∧ (1 ≤ 31 ∧ 31 ≤ 31 ∧ 31 < 32) := by decide
theorem witness_QuarterRoundOnBuffer :
    (15 : Fin 16) ≠ (schedRow 0).a ∧ (15 : Fin 16) ≠ (schedRow 0).b ∧ (15 : Fin 16) ≠ (schedRow 0).c ∧
    (15 : Fin 16) ≠ (schedRow 0).d := by decide
theorem witness_RoundOrderIrrelevant : [7, 6, 5, 4].Perm (List.range' (4 * 1) 4) := by decide
theorem witness_RoundStepEffect :
    ((roundAt 78).phase = .round ∧ (roundAt 78).q.toNat < 79 ∧ (roundAt 78).nextInput = ⟨false, none⟩) ∧
    ((roundAt 79).phase = .round ∧ (roundAt 79).q.toNat = 79 ∧ (roundAt 79).nextInput = ⟨false, none⟩) :=
  ⟨⟨rfl, by decide, rfl⟩, ⟨rfl, rfl, rfl⟩⟩
theorem witness_FinalStepEffect : (finalAt 5).phase = .final ∧ (finalAt 5).nextInput = ⟨false, none⟩ := ⟨rfl, rfl⟩

/-- The 81 cycles of a block, in the first of which the host sends a command. -/
def during : List CycleInput := .ofAccess (.cmd 0 2) :: List.replicate 80 .idle

/-- The last counter value a block can have, and the NEXT for it. -/
def lastNext : State := given (.ofAccess (.cmd 0 2) :: (during ++ [.idle])) (activeAt 0xFFFFFFFFFFFFFFFE)

theorem witness_NextRunsToItsBlock :
    lastNext.inputs = .ofAccess (.cmd lastNext.page 2) :: (during ++ [.idle]) ∧ during.length = 81 ∧
    (∀ c ∈ during, c.rst = false) ∧ lastNext.phase = .idle ∧ lastNext.gen = .active ∧
    lastNext.counter ≠ 0xFFFFFFFFFFFFFFFF := by
  refine ⟨rfl, by decide, by decide, rfl, rfl, by decide⟩
theorem witness_BusyKeepsStateAndOut :
    lastNext.inputs = .ofAccess (.cmd lastNext.page 2) :: (during ++ [.idle]) ∧ during.length = 81 ∧
    (∀ c ∈ during, c.rst = false) ∧ lastNext.phase = .idle ∧ lastNext.gen = .active ∧
    lastNext.counter ≠ 0xFFFFFFFFFFFFFFFF ∧ (1 ≤ 1 ∧ 1 ≤ 81) ∧ (1 ≤ 81 ∧ 81 ≤ 81) := by
  refine ⟨rfl, by decide, by decide, rfl, rfl, by decide, by decide, by decide⟩

/-- Two NEXTs, at the counter that lets exactly two succeed. -/
def twoNexts : State :=
  given (List.replicate 2 (.ofAccess (.cmd 0 2) :: List.replicate 81 ⟨false, none⟩)).flatten
    (activeAt 0xFFFFFFFFFFFFFFFD)

theorem witness_PollReadsUntilIdle :
    (∀ c ∈ (given [.idle, .ofAccess (.cmd 0 2)] (finalAt 5)).inputs, c.rst = false) ∧
    ((activeAt 5).phase = .idle ∧ 1 ≤ 1) ∧ ((finalAt 5).phase = .final ∧ 1 < 2 ∧ 2 ≤ 2) ∧
    ((roundAt 0).phase = .round ∧ (roundAt 0).q.toNat ≤ 79 ∧ 82 = 82 - (roundAt 0).q.toNat) ∧
    ((roundAt 79).phase = .round ∧ (roundAt 79).q.toNat ≤ 79 ∧ 3 = 82 - (roundAt 79).q.toNat) :=
  ⟨by decide, ⟨rfl, by decide⟩, ⟨rfl, by decide, by decide⟩, ⟨rfl, by decide, rfl⟩, ⟨rfl, by decide, rfl⟩⟩
theorem witness_NextGathersItsBlock :
    (∀ c ∈ lastNext.inputs, c.rst = false) ∧ lastNext.phase = .idle ∧ lastNext.gen = .active ∧
    lastNext.counter ≠ 0xFFFFFFFFFFFFFFFF ∧ 82 ≤ 82 := ⟨by decide, rfl, rfl, by decide, by decide⟩
theorem witness_CounterSequence :
    twoNexts.inputs =
      (List.replicate 2 (.ofAccess (.cmd twoNexts.page 2) :: List.replicate 81 ⟨false, none⟩)).flatten ++ [] ∧
    twoNexts.phase = .idle ∧ twoNexts.gen = .active ∧ twoNexts.counter.toNat + 2 ≤ 2 ^ 64 - 1 := by
  refine ⟨by rw [List.append_nil]; rfl, rfl, rfl, by decide⟩
theorem witness_ConstructBuildsInstance :
    let s := given (HostProgram.backToBack (HostProgram.construct 0 (Vector.replicate 32 7) (Vector.replicate 8 9) 32 300))
      exhausted
    s.inputs =
      HostProgram.backToBack (HostProgram.construct s.page (Vector.replicate 32 7) (Vector.replicate 8 9) 32 300) ++ [] ∧
    s.phase = .idle ∧ 32 ≤ 32 ∧ 8 ≤ 300 := by
  refine ⟨by rw [List.append_nil]; rfl, rfl, by decide, by decide⟩
theorem witness_PreloadLoadsCounter :
    let s := given (HostProgram.backToBack (HostProgram.ldctr 0 0xFFFFFFFF ++ [HostProgram.cmdSetctr 0])) (activeAt 5)
    s.inputs = HostProgram.backToBack (HostProgram.ldctr s.page 0xFFFFFFFF ++ [HostProgram.cmdSetctr s.page]) ++ [] ∧
    s.phase = .idle ∧ s.gen = .active := by
  refine ⟨by rw [List.append_nil]; rfl, rfl, rfl⟩
theorem witness_CounterIncrementCarries :
    (activeAt 0xFFFFFFFF).ctrLo = 0xFFFFFFFF ∧ (activeAt 0xFFFFFFFE).ctrLo ≠ 0xFFFFFFFF := by decide
theorem witness_WouldExhaustIsLastCounter :
    (activeAt 0xFFFFFFFFFFFFFFFF).wouldExhaust = true ∧ (activeAt 0xFFFFFFFFFFFFFFFE).wouldExhaust = false := by decide
theorem witness_FinalDoesNotWrap :
    (finalAt 0xFFFFFFFFFFFFFFFE).Inv ∧ (finalAt 0xFFFFFFFFFFFFFFFE).phase = .final ∧
    (finalAt 0xFFFFFFFFFFFFFFFE).nextInput.rst = false := ⟨witness_inv _ (by decide), rfl, rfl⟩
theorem witness_StepKeepsInvariant : (finalAt 5).Inv ∧ ∃ t, step (finalAt 5) = .next t :=
  ⟨witness_inv 5 (by decide), _, rfl⟩

/-- A cycle with RST, a successful INIT, an exhausting NEXT, a SETCTR, a FINAL step and an idle cycle: one for every
clause of StateTransitions, OutWriters, InstanceWriters and ValidWriters. -/
theorem witness_Writers :
    (∃ t, step (given [⟨true, none⟩] (finalAt 5)) = .next t) ∧
    (∃ t, step (commanded 0x00082001) = .next t ∧ (commanded 0x00082001).accepted.any successfulInit = true) ∧
    (∃ t, step (given [.ofAccess (.cmd 0 2)] (activeAt 0xFFFFFFFFFFFFFFFF)) = .next t ∧
      (given [.ofAccess (.cmd 0 2)] (activeAt 0xFFFFFFFFFFFFFFFF)).accepted = some (.command .next)) ∧
    (∃ t, step (commanded 3) = .next t ∧ (commanded 3).accepted = some (.command .setctr)) ∧
    (∃ t, step (finalAt 5) = .next t) ∧ ∃ t, step (activeAt 5) = .next t :=
  ⟨⟨_, rfl⟩, ⟨_, rfl, by decide⟩, ⟨_, rfl, by decide⟩, ⟨_, rfl, by decide⟩, ⟨_, rfl⟩, _, rfl⟩
theorem witness_SequencerWriters :
    (∃ t, step (given [⟨true, none⟩] (roundAt 10)) = .next t) ∧
    ((∃ t, step (roundAt 78) = .next t) ∧ (roundAt 78).nextInput.rst = false ∧ (roundAt 78).phase = .round ∧
      (roundAt 78).q ≠ 79) ∧
    ((roundAt 79).phase = .round ∧ (roundAt 79).q = 79) ∧ (finalAt 5).phase = .final ∧
    ((∃ t, step (commanded 2) = .next t) ∧ (commanded 2).startsBlock) ∧
    ((activeAt 5).phase = .idle ∧ ¬ (activeAt 5).startsBlock) := by
  refine ⟨⟨_, rfl⟩, ⟨⟨_, rfl⟩, rfl, rfl, by decide⟩, ⟨rfl, rfl⟩, rfl, ⟨⟨_, rfl⟩, by decide, rfl, by decide⟩, rfl, ?_⟩
  rintro ⟨h, -⟩
  cases h
theorem witness_StagingWriters :
    (∃ t, step (given [.ofAccess (.wr32 0 0x2C 7)] (finalAt 5)) = .next t) ∧ (0x2F : Offset).toNat < 0x30 ∧
    stagedBy 0 (some (.wr32 0 0x2C 0x07000000)) 0x2F = some 7 := ⟨⟨_, rfl⟩, by decide, by decide⟩
theorem witness_ErrAndOvrWriters :
    (∃ t, step (given [⟨true, none⟩] (finalAt 5)) = .next t) ∧
    (∃ t, step (commanded 4) = .next t ∧ (commanded 4).nextInput.rst = false ∧
      (commanded 4).accepted = some (.illegal .operation)) ∧
    (∃ t, step (given [.ofAccess (.cmd 0 2)] (finalAt 5)) = .next t ∧
      (given [.ofAccess (.cmd 0 2)] (finalAt 5)).busy = true ∧
      (given [.ofAccess (.cmd 0 2)] (finalAt 5)).cmdWrite ≠ none) ∧
    ∃ t, step (activeAt 5) = .next t ∧ (activeAt 5).nextInput.rst = false ∧ (activeAt 5).accepted = none ∧
      (activeAt 5).cmdWrite = none :=
  ⟨⟨_, rfl⟩, ⟨_, rfl, rfl, by decide⟩, ⟨_, rfl, rfl, by decide⟩, _, rfl, rfl, rfl, rfl⟩
theorem witness_ResetCycleEffect : (given [⟨true, some (.cmd 0 2)⟩] (roundAt 10)).nextInput.rst = true := rfl
theorem witness_IdleCoreKeepsState : (activeAt 5).phase = .idle ∧ (activeAt 5).nextInput = ⟨false, none⟩ := ⟨rfl, rfl⟩
theorem witness_BusErrorCases :
    offsetOf 1 0x100 = some 0x00 ∧ offsetOf 1 0x1FF = some 0xFF ∧ offsetOf 1 0x130 = some 0x30 ∧
    offsetOf 1 0x137 = some 0x37 ∧ offsetOf 1 0x138 = some 0x38 ∧ offsetOf 1 0x13F = some 0x3F ∧
    offsetOf 1 0x140 = some 0x40 ∧ offsetOf 1 0x17F = some 0x7F ∧ offsetOf 1 0x180 = some 0x80 := by decide
theorem witness_BusErrorHasNoEffect :
    (given [.ofAccess (.wr8 0 0x30 2)] (finalAt 5)).inputs = .ofAccess (.wr8 0 0x30 2) :: [] ∧
    hostAccess (.wr8 0 0x30 2) (given [.ofAccess (.wr8 0 0x30 2)] (finalAt 5)) = .fault .busError ∧
    ∃ t, step { given [.ofAccess (.wr8 0 0x30 2)] (finalAt 5) with inputs := ⟨false, none⟩ :: [] } = .next t :=
  ⟨rfl, rfl, _, rfl⟩
theorem witness_OutsideWindowHasNoEffect :
    (given [.ofAccess ⟨.write, .word, 0xFF, 2⟩] { activeAt 5 with page := 1 }).inputs =
      .ofAccess ⟨.write, .word, 0xFF, 2⟩ :: [] ∧ 0xFF < coreBase 1 ∧ coreBase 1 + 0x100 ≤ 0x200 := ⟨rfl, by decide, by decide⟩
theorem witness_WriteOnlyReadsZero :
    (0x2F : Offset).toNat < 0x30 ∧ ((0x2C : Offset).toNat < 0x30 ∧ (0x2C : Offset).toNat % 4 = 0) := by decide
theorem witness_StatusAndOutReads :
    ({ activeAt 5 with out := serialize (Vector.replicate 16 0xade0b876) } : State).out =
      serialize (Vector.replicate 16 0xade0b876) := rfl
theorem witness_WordAccessLittleEndian :
    ((0x2C : Offset).toNat < 0x30 ∧ (0x2C : Offset).toNat % 4 = 0) ∧ ((0x1C : Offset).toNat = 4 * (7 : Fin 8).val) ∧
    (0x40 ≤ (0x7C : Offset).toNat ∧ (0x7C : Offset).toNat < 0x80 ∧ (0x7C : Offset).toNat % 4 = 0 ∧
      (activeAt 5).storedByte 0x7C = some 0 ∧ (activeAt 5).storedByte (0x7C + 1) = some 0 ∧
      (activeAt 5).storedByte (0x7C + 2) = some 0 ∧ (activeAt 5).storedByte (0x7C + 3) = some 0) := by decide
theorem witness_ByteWriteEffect : (0x2F : Offset).toNat < 0x30 ∧ (0x2E : Offset) ≠ 0x2F := by decide

/-- A FINAL cycle with the read of the window's offset `off`, and key word 0 `k`. -/
def readInFinal (off : Nat) (k : Word) : State :=
  given [.ofAccess (.rd32 0 off)] { finalAt 5 with key := (Vector.replicate 8 0).set 0 k }

theorem witness_AnswersHideSecrets :
    let s := readInFinal 0x00 1
    let s' := readInFinal 0x00 2
    s.page = s'.page ∧ s.inputs = s'.inputs ∧ s.nextInput.rst = false ∧ s.out = s'.out ∧ s.gen = s'.gen ∧
    s.valid = s'.valid ∧ s.err = s'.err ∧ s.ovr = s'.ovr ∧ s.phase = s'.phase ∧ (∃ t, step s = .next t) ∧
    (∃ t', step s' = .next t') ∧ s.key ≠ s'.key := by
  refine ⟨rfl, rfl, rfl, rfl, rfl, rfl, rfl, rfl, rfl, ⟨_, rfl⟩, ⟨_, rfl⟩, by decide⟩
theorem witness_SidesLandTogether :
    (commanded 2).busy = false ∧ (given [.ofAccess (.wr32 0 0x2C 1)] (roundAt 0)).busy = true ∧
    ∃ h, hostSide (given [.ofAccess (.wr32 0 0x2C 1)] (roundAt 0)).nextInput.access
      (given [.ofAccess (.wr32 0 0x2C 1)] (roundAt 0)) = .next h := ⟨rfl, rfl, _, rfl⟩
theorem witness_FinalCycleReadsOldState :
    (readInFinal 0x34 0).phase = .final ∧
    (readInFinal 0x34 0).inputs = .ofAccess (.rd32 (readInFinal 0x34 0).page 0x34) :: [] ∧
    (readInFinal 0x7C 0).inputs = .ofAccess (.rd32 (readInFinal 0x7C 0).page (0x40 + 4 * (15 : Fin 16).val)) :: [] :=
  ⟨rfl, rfl, rfl⟩

end Sys2Proof.Tests
end

/-! ### The rotation (41_quarter_round.md R70) -/

section
namespace Sys2Proof.Machine

/-- The bits of a word that ROTL32 wraps around come out at the bottom, below bit n. -/
theorem getLsbD_rotl32_of_lt (v : Word) (n j : Nat) (hn : n < 32) (hj : j < n) :
    (rotl32 v n).getLsbD j = v.getLsbD (32 - n + j) := by
  rw [rotl32_eq_rotateLeft v n hn, BitVec.getLsbD_rotateLeft_of_le hn, decide_eq_true hj, cond_true]

/-- The other bits of a word go up by n under ROTL32. -/
theorem getLsbD_rotl32_of_le (v : Word) (n j : Nat) (hn : n < 32) (hj : n ≤ j) (hj32 : j < 32) :
    (rotl32 v n).getLsbD j = v.getLsbD (j - n) := by
  rw [rotl32_eq_rotateLeft v n hn, BitVec.getLsbD_rotateLeft_of_le hn, decide_eq_false (Nat.not_lt.mpr hj), cond_false,
    decide_eq_true hj32, Bool.true_and]

/-- Settles O19: a bit that stays below bit 32 goes up by n, and one that would pass it comes in again at the bottom. -/
theorem rotationMovesBits : Obligations.RotationMovesBits := by
  unfold Obligations.RotationMovesBits
  intro v n i _ hn hi
  rcases Nat.lt_or_ge (i + n) 32 with hstay | hwrap
  · rw [Nat.mod_eq_of_lt hstay, getLsbD_rotl32_of_le v n (i + n) (by omega) (by omega) hstay, Nat.add_sub_cancel]
  · have hmod : (i + n) % 32 = i + n - 32 := by omega
    have hback : 32 - n + (i + n - 32) = i := by omega
    rw [hmod, getLsbD_rotl32_of_lt v n (i + n - 32) (by omega) (by omega), hback]

end Sys2Proof.Machine
end

/-! ### What an accepted command and an unaccepted cycle do (10_state.md R15 to R31) -/

section
namespace Sys2Proof.Machine

/-- `Accepts s d u`: accepting the word that decodes to `d` takes the idle state `s` to `u`; one constructor per outcome
of 40_commands.md R62 to R65. -/
inductive Accepts (s : State) : Decoded → State → Prop
  /-- A successful INIT. -/
  | constructs {d : Decoded} (hd : successfulInit d = true) : Accepts s d s.accept.constructInstance
  /-- A NEXT in Active at the last counter. -/
  | exhausts (hg : s.gen = .active) (hc : s.counter = 0xFFFFFFFFFFFFFFFF) :
      Accepts s (.command .next) (s.accept.clearValid.exhaust.raise .outputExhausted)
  /-- A NEXT in Active at any other counter. -/
  | starts (hg : s.gen = .active) (hc : s.counter ≠ 0xFFFFFFFFFFFFFFFF) :
      Accepts s (.command .next) s.accept.clearValid.startBlock
  /-- A NEXT before the first INIT, or after the last block. -/
  | nextFails (hg : s.gen ≠ .active) :
      Accepts s (.command .next) (s.accept.clearValid.raise (s.resultCode (.command .next)))
  /-- A SETCTR in Active. -/
  | loads (hg : s.gen = .active) : Accepts s (.command .setctr) s.accept.loadCounter
  /-- Any other word only records its error. -/
  | fails {d : Decoded} (hi : successfulInit d = false) (hn : d ≠ .command .next)
      (hs : d = .command .setctr → s.gen ≠ .active) : Accepts s d (s.accept.raise (s.resultCode d))

/-- A command's meaning after the acceptance step is one of the outcomes. -/
theorem accepts_of_exec {i : Instr} {s u : State} (h : exec i s.accept = .next u) : Accepts s (.command i) u := by
  cases i with
  | init klen vlen =>
    rcases execInit_cases h with ⟨hk, rfl⟩ | ⟨hk, hv, rfl⟩ | ⟨hk, hv, rfl⟩
    · have hcode : s.resultCode (.command (.init klen vlen)) = .invalidKeyLength := by simp [State.resultCode, hk]
      exact hcode ▸ .fails (by simp [successfulInit, hk]) (by simp) (by simp)
    · have hcode : s.resultCode (.command (.init klen vlen)) = .invalidIvLength := by
        simp [State.resultCode, Nat.not_lt.2 hk, hv]
      exact hcode ▸ .fails (by simp [successfulInit, hv]) (by simp) (by simp)
    · exact .constructs (by simp [successfulInit, hk, hv])
  | next =>
    rcases execNext_cases h with ⟨hg, rfl⟩ | ⟨hg, rfl⟩ | ⟨hg, hw, rfl⟩ | ⟨hg, hw, rfl⟩
    · have hg : s.gen = .uninit := hg
      have hcode : s.resultCode (.command .next) = .notActive := by simp [State.resultCode, hg]
      exact hcode ▸ .nextFails (by simp [hg])
    · have hg : s.gen = .exhausted := hg
      have hcode : s.resultCode (.command .next) = .outputExhausted := by simp [State.resultCode, hg]
      exact hcode ▸ .nextFails (by simp [hg])
    · exact .exhausts hg (s.wouldExhaust_iff.1 hw)
    · refine .starts hg fun hc => ?_
      have hw' : s.accept.wouldExhaust = true := s.wouldExhaust_iff.2 hc
      simp [hw] at hw'
  | setctr =>
    rcases execSetctr_cases h with ⟨hg, rfl⟩ | ⟨hg, rfl⟩
    · exact .loads hg
    · have hg : s.gen ≠ .active := hg
      have hcode : s.resultCode (.command .setctr) = .notActive := by simp [State.resultCode, hg]
      exact hcode ▸ .fails rfl (by simp) fun _ => hg

/-- An illegal word only records its error (40_commands.md R65). -/
theorem accepts_illegal (s : State) (why : IllegalWord) : Accepts s (.illegal why) (illegalCommand s.accept) :=
  .fails rfl (by simp) (by simp)

/-- `t` has CORE's own registers of `u`: they differ at most in staging, OVR and the model's own fields. -/
structure SameRegisters (u t : State) : Prop where
  key : t.key = u.key
  counter : t.counter = u.counter
  nonce : t.nonce = u.nonce
  x : t.x = u.x
  out : t.out = u.out
  gen : t.gen = u.gen
  valid : t.valid = u.valid
  err : t.err = u.err
  phase : t.phase = u.phase
  q : t.q = u.q

theorem SameRegisters.of_sameButStaging {u t : State} (h : SameButStaging u t) : SameRegisters u t := by
  obtain ⟨ks, is, cs, r, rfl⟩ := h
  exact ⟨rfl, rfl, rfl, rfl, rfl, rfl, rfl, rfl, rfl, rfl⟩

/-- OVR, the answer and the pending inputs are none of the registers compared. -/
theorem SameRegisters.environment (u : State) (o : Bool) (r : Response) (inp : List CycleInput) :
    SameRegisters u { u with ovr := o, response := r, inputs := inp } :=
  ⟨rfl, rfl, rfl, rfl, rfl, rfl, rfl, rfl, rfl, rfl⟩

theorem SameRegisters.accept (s : State) : SameRegisters s s.accept := .environment s false s.response s.inputs

/-- The end of a cycle writes no register. -/
theorem SameRegisters.consumeInput {u t : State} (h : SameRegisters u t) : SameRegisters u t.consumeInput :=
  ⟨h.key, h.counter, h.nonce, h.x, h.out, h.gen, h.valid, h.err, h.phase, h.q⟩

/-- What one step can do to CORE's own registers: reset, the sequencer's step when no command is accepted, or the
acceptance of a word. -/
theorem step_effect {s t : State} (h : step s = .next t) :
    (s.nextInput.rst = true ∧ t = (s.resetCycle s.nextInput.access).consumeInput) ∨
    (s.nextInput.rst = false ∧ s.accepted = none ∧ SameRegisters s.sequencerStep t) ∨
    (∃ d u, s.nextInput.rst = false ∧ s.phase = .idle ∧ s.accepted = some d ∧ Accepts s d u ∧ SameRegisters u t) := by
  rcases step_cases h with hreset | ⟨hr, hc, u, hu, rfl⟩ | ⟨hr, ⟨hb, -⟩, rfl⟩ | ⟨i, u, hr, hp, ha, he, rfl⟩ |
    ⟨why, hr, hp, ha, rfl⟩
  · exact .inl hreset
  · exact .inr (.inl ⟨hr, by simp [State.accepted, hc], (SameRegisters.of_sameButStaging hu).consumeInput⟩)
  · exact .inr (.inl ⟨hr, by simp [State.accepted, hb], .environment _ _ _ _⟩)
  · exact .inr (.inr ⟨_, u, hr, hp, ha, accepts_of_exec he, .environment u _ _ _⟩)
  · exact .inr (.inr ⟨_, _, hr, hp, ha, accepts_illegal s why, .environment _ _ _ _⟩)

/-! ### The counter after each operation -/

@[simp] theorem State.accept_counter (s : State) : s.accept.counter = s.counter := rfl
@[simp] theorem State.clearValid_counter (s : State) : s.clearValid.counter = s.counter := rfl
@[simp] theorem State.raise_counter (e : ErrCode) (s : State) : (s.raise e).counter = s.counter := rfl
@[simp] theorem State.startBlock_counter (s : State) : s.startBlock.counter = s.counter := rfl
@[simp] theorem State.loadCounter_counter (s : State) : s.loadCounter.counter = s.stagedCtrHi ++ s.stagedCtrLo := rfl

/-- Both words zero are the counter 0. -/
theorem State.counter_eq_zero {s : State} (hl : s.ctrLo = 0) (hh : s.ctrHi = 0) : s.counter = 0 := by
  rw [State.counter, hl, hh]
  rfl

@[simp] theorem State.constructInstance_counter (s : State) : s.constructInstance.counter = 0 :=
  State.counter_eq_zero s.constructInstance_ctrLo s.constructInstance_ctrHi

@[simp] theorem State.exhaust_counter (s : State) : s.exhaust.counter = 0 :=
  State.counter_eq_zero s.exhaust_ctrLo s.exhaust_ctrHi

/-- The increment of the two words is the 64-bit +1 (43_counter.md R82). -/
@[simp] theorem State.counterIncrement_counter (s : State) : s.counterIncrement.counter = s.counter + 1 := by
  have hl := s.ctrLo.isLt
  have hh := s.ctrHi.isLt
  apply BitVec.eq_of_toNat_eq
  rw [BitVec.toNat_add, State.counter_toNat, State.counter_toNat, State.counterIncrement_ctrHi,
    State.counterIncrement_ctrLo]
  have hone : (1 : DWord).toNat = 1 := rfl
  have hlo : (s.ctrLo + 1).toNat = (s.ctrLo.toNat + 1) % 4294967296 := BitVec.toNat_add ..
  have hhi : (s.ctrHi + 1).toNat = (s.ctrHi.toNat + 1) % 4294967296 := BitVec.toNat_add ..
  have hwrap : s.ctrLo + 1 = 0 ↔ (s.ctrLo.toNat + 1) % 4294967296 = 0 := by rw [← BitVec.toNat_inj, hlo]; rfl
  split
  case isTrue h0 => have := hwrap.1 h0; omega
  case isFalse h0 => have := mt hwrap.2 h0; omega

@[simp] theorem State.finalStep_counter (s : State) : s.finalStep.counter = s.counter + 1 := by
  rw [← s.counterIncrement_counter]
  exact State.counter_congr rfl rfl

/-! ### The registers after the sequencer's step -/

theorem State.sequencerStep_out (s : State) :
    s.sequencerStep.out = if s.phase = .final then serialize (feedForward s.x s.S) else s.out := by
  cases hp : s.phase <;> simp [State.sequencerStep, hp]

theorem State.sequencerStep_valid (s : State) :
    s.sequencerStep.valid = if s.phase = .final then true else s.valid := by
  cases hp : s.phase <;> simp [State.sequencerStep, hp]

@[simp] theorem State.roundStep_counter (s : State) : s.roundStep.counter = s.counter :=
  State.counter_congr s.roundStep_ctrLo s.roundStep_ctrHi

theorem State.sequencerStep_counter (s : State) :
    s.sequencerStep.counter = if s.phase = .final then s.counter + 1 else s.counter := by
  cases hp : s.phase <;> simp [State.sequencerStep, hp]

theorem State.roundStep_phase (s : State) (h : s.phase = .round) :
    s.roundStep.phase = if s.q = 79 then .final else .round := by
  split
  case isTrue hq => rw [State.roundStep_last hq]
  case isFalse hq => rw [State.roundStep_notLast hq]; exact h

theorem State.roundStep_q (s : State) (h : s.q ≠ 79) : s.roundStep.q = s.q + 1 := by
  rw [State.roundStep_notLast h]

/-- The schedule repeats every eight rows (30_encoding.md R58). -/
theorem schedRow_mod (n : Nat) : schedRow (n % 8) = schedRow n := by
  simp [schedRow]

/-! ### Every write to a register -/

/-- A successful INIT makes STATE Active and a NEXT at the last counter Exhausted (10_state.md R26). -/
theorem Accepts.gen {s u : State} {d : Decoded} (h : Accepts s d u) :
    u.gen =
      if successfulInit d = true then .active
      else if d = .command .next ∧ s.gen = .active ∧ s.counter = 0xFFFFFFFFFFFFFFFF then .exhausted
      else s.gen := by
  cases h with
  | constructs hd => simp [hd]
  | exhausts hg hc => simp [hg, hc, successfulInit]
  | starts hg hc =>
    have hmax : ∀ P Q : Prop, ¬ (P ∧ Q ∧ s.counter = 0xFFFFFFFFFFFFFFFF) := fun _ _ ⟨_, _, h⟩ => hc h
    rw [if_neg (hmax _ _)]
    simp [successfulInit]
  | nextFails hg => simp [hg, successfulInit]
  | loads hg => simp [successfulInit]
  | fails hi hn hs => simp [hi, hn]

/-- Settles O39: the sequencer leaves STATE; a successful INIT makes it Active and a NEXT at the last counter
Exhausted. -/
theorem stateTransitions : Obligations.StateTransitions := by
  unfold Obligations.StateTransitions
  intro s t h
  rcases step_effect h with ⟨hr, rfl⟩ | ⟨hr, ha, ht⟩ | ⟨d, u, hr, hp, ha, hu, ht⟩
  · simp [hr]
  · simp [hr, ha, ht.gen]
  · simp [hr, ha, ht.gen, hu.gen]

/-- Of the commands only a successful INIT writes the key, the nonce and OUT (10_state.md R15, R17, R21). -/
theorem Accepts.key_nonce_out {s u : State} {d : Decoded} (h : Accepts s d u) :
    u.key = (if successfulInit d = true then s.stagedKey else s.key) ∧
    u.nonce = (if successfulInit d = true then s.stagedNonce else s.nonce) ∧
    u.out = (if successfulInit d = true then Vector.replicate 64 0 else s.out) := by
  cases h with
  | constructs hd => rw [if_pos hd, if_pos hd, if_pos hd]; exact ⟨rfl, rfl, rfl⟩
  | exhausts hg hc => exact ⟨rfl, rfl, rfl⟩
  | starts hg hc => exact ⟨rfl, rfl, rfl⟩
  | nextFails hg => exact ⟨rfl, rfl, rfl⟩
  | loads hg => exact ⟨rfl, rfl, rfl⟩
  | fails hi hn hs => simp [hi]

/-- Settles O40: the FINAL step writes OUT in a cycle that accepts nothing; of the commands only a successful INIT
does. -/
theorem outWriters : Obligations.OutWriters := by
  unfold Obligations.OutWriters
  intro s t h
  rcases step_effect h with ⟨hr, rfl⟩ | ⟨hr, ha, ht⟩ | ⟨d, u, hr, hp, ha, hu, ht⟩
  · simp [hr]
  · simp [hr, ha, ht.out, State.sequencerStep_out]
  · obtain ⟨-, -, hout⟩ := hu.key_nonce_out
    simp [hr, hp, ha, ht.out, hout]

/-- A successful INIT, an exhausting NEXT and a successful SETCTR write the counter (10_state.md R16). -/
theorem Accepts.counter {s u : State} {d : Decoded} (h : Accepts s d u) :
    u.counter =
      if successfulInit d = true then 0
      else if d = .command .next ∧ s.gen = .active ∧ s.counter = 0xFFFFFFFFFFFFFFFF then 0
      else if d = .command .setctr ∧ s.gen = .active then s.stagedCtrHi ++ s.stagedCtrLo
      else s.counter := by
  cases h with
  | constructs hd => simp [hd]
  | exhausts hg hc => simp [hg, hc, successfulInit]
  | starts hg hc =>
    have hmax : ∀ P Q : Prop, ¬ (P ∧ Q ∧ s.counter = 0xFFFFFFFFFFFFFFFF) := fun _ _ ⟨_, _, h⟩ => hc h
    rw [if_neg (hmax _ _)]
    simp [successfulInit]
  | nextFails hg => simp [hg, successfulInit]
  | loads hg => simp [hg, successfulInit, State.stagedCtrLo, State.stagedCtrHi]
  | fails hi hn hs =>
    have hload : ¬ (_ ∧ s.gen = .active) := fun ⟨hd, hg⟩ => hs hd hg
    simp [hi, hn, hload]

/-- Settles O41: reset and a successful INIT write all three; the FINAL step, an exhausting NEXT and a successful SETCTR
write the counter. -/
theorem instanceWriters : Obligations.InstanceWriters := by
  unfold Obligations.InstanceWriters
  intro s t h
  rcases step_effect h with ⟨hr, rfl⟩ | ⟨hr, ha, ht⟩ | ⟨d, u, hr, hp, ha, hu, ht⟩
  · have hc : (s.resetCycle s.nextInput.access).consumeInput.counter = 0 := State.counter_eq_zero rfl rfl
    simp [hr, hc]
  · simp [hr, ha, ht.key, ht.nonce, ht.counter, State.sequencerStep_counter]
  · obtain ⟨hkey, hnonce, -⟩ := hu.key_nonce_out
    simp [hr, hp, ha, ht.key, ht.nonce, ht.counter, hkey, hnonce, hu.counter]

/-- Every NEXT and a successful INIT clear VALID (10_state.md R28). -/
theorem Accepts.valid {s u : State} {d : Decoded} (h : Accepts s d u) :
    u.valid = if d = .command .next then false else if successfulInit d = true then false else s.valid := by
  cases h with
  | constructs hd => simp [hd]
  | exhausts hg hc => rfl
  | starts hg hc => rfl
  | nextFails hg => rfl
  | loads hg => rfl
  | fails hi hn hs => simp [hi, hn]

/-- Settles O42: VALID is the FINAL step's to set; every NEXT and a successful INIT clear it. -/
theorem validWriters : Obligations.ValidWriters := by
  unfold Obligations.ValidWriters
  intro s t h
  rcases step_effect h with ⟨hr, rfl⟩ | ⟨hr, ha, ht⟩ | ⟨d, u, hr, hp, ha, hu, ht⟩
  · simp [hr]
  · simp [hr, ha, ht.valid, State.sequencerStep_valid]
  · simp [hr, hp, ha, ht.valid, hu.valid]

/-- Accepting a word starts a block exactly if `startsBlock` says so; nothing else writes PHASE or X. -/
theorem Accepts.sequencer {s u : State} {d : Decoded} (h : Accepts s d u) (ha : s.accepted = some d) :
    (s.startsBlock → u.phase = .round ∧ u.q = 0 ∧ u.x = s.S) ∧
    (¬ s.startsBlock → u.phase = s.phase ∧ u.x = s.x) := by
  cases h with
  | starts hg hc => exact ⟨fun _ => ⟨rfl, rfl, rfl⟩, fun hn => absurd ⟨ha, hg, hc⟩ hn⟩
  | constructs hd =>
    refine ⟨fun ⟨hn, _, _⟩ => ?_, fun _ => ⟨rfl, rfl⟩⟩
    rw [Option.some.inj (ha.symm.trans hn)] at hd
    cases hd
  | exhausts hg hc => exact ⟨fun ⟨_, _, hn⟩ => absurd hc hn, fun _ => ⟨rfl, rfl⟩⟩
  | nextFails hg => exact ⟨fun ⟨_, hn, _⟩ => absurd hn hg, fun _ => ⟨rfl, rfl⟩⟩
  | loads hg => exact ⟨fun ⟨hn, _, _⟩ => (by simp [ha] at hn), fun _ => ⟨rfl, rfl⟩⟩
  | fails hi hn hs => exact ⟨fun ⟨hd, _, _⟩ => absurd (Option.some.inj (ha.symm.trans hd)) hn, fun _ => ⟨rfl, rfl⟩⟩

/-- Settles O43: the sequencer's step while PHASE ≠ IDLE, and the LOAD of an accepted NEXT while it is IDLE. -/
theorem sequencerWriters : Obligations.SequencerWriters := by
  unfold Obligations.SequencerWriters
  intro s t h
  rcases step_effect h with ⟨hr, rfl⟩ | ⟨hr, ha, ht⟩ | ⟨d, u, hr, hp, ha, hu, ht⟩
  · exact ⟨fun _ => rfl, fun hr' => by simp [hr] at hr'⟩
  · refine ⟨fun hr' => by simp [hr] at hr', fun _ => ⟨fun hp => ?_, fun hp => ?_, fun hs => ?_, fun hp _ => ?_⟩⟩
    · rw [ht.phase, ht.q, ht.x, State.sequencerStep_round hp, State.roundStep_phase s hp, State.roundStep_x,
        schedRow_mod]
      exact ⟨rfl, State.roundStep_q s, rfl⟩
    · rw [ht.phase, ht.x, State.sequencerStep_final hp]
      exact ⟨rfl, rfl⟩
    · simp [State.startsBlock, ha] at hs
    · rw [ht.phase, ht.x, State.sequencerStep_idle hp]
      exact ⟨hp, rfl⟩
  · obtain ⟨hstart, hkeep⟩ := hu.sequencer ha
    rw [ht.phase, ht.q, ht.x]
    refine ⟨fun hr' => by simp [hr] at hr', fun _ => ⟨?_, ?_, hstart, fun _ hn => ?_⟩⟩
    · simp [hp]
    · simp [hp]
    · exact hp ▸ hkeep hn

/-- A successful INIT has the result code OK (60_exceptions.md R87). -/
theorem State.resultCode_of_successfulInit (s : State) {d : Decoded} (h : successfulInit d = true) :
    s.resultCode d = .ok := by
  rcases d with (⟨klen, vlen⟩ | _ | _) | why
  · simp only [successfulInit, Bool.and_eq_true, decide_eq_true_eq] at h
    obtain ⟨hk, hv⟩ := h
    simp [State.resultCode, Nat.not_lt.2 hk, Nat.not_lt.2 hv]
  · cases h
  · cases h
  · cases h

/-- An accepted word writes its result code to ERR, and its acceptance cleared OVR (10_state.md R29, R30). -/
theorem Accepts.err_ovr {s u : State} {d : Decoded} (h : Accepts s d u) : u.err = s.resultCode d ∧ u.ovr = false := by
  cases h with
  | constructs hd => exact ⟨(s.resultCode_of_successfulInit hd).symm, rfl⟩
  | exhausts hg hc => simp [State.resultCode, hg, hc]
  | starts hg hc => simpa [State.resultCode, hg] using hc
  | nextFails hg => exact ⟨rfl, rfl⟩
  | loads hg => simp [State.resultCode, hg]
  | fails hi hn hs => exact ⟨rfl, rfl⟩

/-- Settles O45: an accepted command writes both, a discarded one OVR; without a CMD write neither changes. -/
theorem errAndOvrWriters : Obligations.ErrAndOvrWriters := by
  unfold Obligations.ErrAndOvrWriters
  intro s t h
  have haccepted : ∀ d u, s.phase = .idle → s.accepted = some d → Accepts s d u →
      (∀ d', s.accepted = some d' → u.err = s.resultCode d' ∧ u.ovr = false) ∧
      (s.accepted = none → u.err = s.err) ∧ (s.discards → u.ovr = true) ∧ (s.cmdWrite = none → u.ovr = s.ovr) := by
    intro d u hp ha hu
    have hw : s.cmdWrite ≠ none := fun hc => by simp [State.accepted, hc] at ha
    simpa [ha, hw, hp, State.discards] using hu.err_ovr
  rcases step_cases h with ⟨hr, rfl⟩ | ⟨hr, hc, u, ⟨ks, is, cs, r, rfl⟩, rfl⟩ | ⟨hr, ⟨hb, hc⟩, rfl⟩ |
    ⟨i, u, hr, hp, ha, he, rfl⟩ | ⟨why, hr, hp, ha, rfl⟩
  · exact ⟨fun _ => ⟨rfl, rfl⟩, fun hr' => by simp [hr] at hr'⟩
  · simp [hr, hc, State.accepted, State.discards]
  · simp [hr, hb, hc, State.accepted]
  · exact ⟨fun hr' => by simp [hr] at hr', fun _ => haccepted _ u hp ha (accepts_of_exec he)⟩
  · exact ⟨fun hr' => by simp [hr] at hr', fun _ => haccepted _ (illegalCommand s.accept) hp ha (accepts_illegal s why)⟩

end Sys2Proof.Machine
end

/-! ### The invariant of a run (10_state.md R21, R26, R28, R31, 42_round_sequencer.md R76, 43_counter.md R83) -/

section
namespace Sys2Proof.Machine

@[simp] theorem State.withCounter_counter (s : State) (c : DWord) : (s.withCounter c).counter = c := by
  rw [State.counter, State.withCounter_ctrHi, State.withCounter_ctrLo]
  exact BitVec.extractLsb'_append_extractLsb'

/-- With the counter set, S depends on the key and the nonce only, so these two fix the keystream's blocks
(42_round_sequencer.md R79). -/
theorem State.keystreamBlock_congr {s t : State} (hk : t.key = s.key) (hn : t.nonce = s.nonce) (c : DWord) :
    t.keystreamBlock c = s.keystreamBlock c := by
  have hc : (t.withCounter c).counter = (s.withCounter c).counter := by simp
  have hS : (t.withCounter c).S = (s.withCounter c).S := State.S_congr hk hc hn
  rw [State.keystreamBlock, State.keystreamBlock, hS]

/-- The FINAL step of a mixed buffer writes the block of the counter as it was (42_round_sequencer.md R77, R79). -/
theorem State.finalStep_out_of_mixed {s : State} (hx : s.x = quarterRoundsFrom s.S Config.quarterRounds) :
    s.finalStep.out = s.keystreamBlock s.counter := by
  have hS : (s.withCounter s.counter).S = s.S :=
    State.S_congr (s.withCounter_key _) (s.withCounter_counter _) (s.withCounter_nonce _)
  rw [State.finalStep_out, State.keystreamBlock, hS, block, hx]

/-- The invariant speaks of CORE's own registers only. -/
theorem State.Inv.of_sameRegisters {u t : State} (hi : u.Inv) (h : SameRegisters u t) : t.Inv := by
  have hS : t.S = u.S := State.S_congr h.key h.counter h.nonce
  have hb : t.busy = u.busy := by rw [State.busy, State.busy, h.phase]
  have hblock := State.keystreamBlock_congr h.key h.nonce
  obtain ⟨hindex, hmixing, hmixed, hrunning, huntouched, hexhausted, hown, hvalid⟩ := hi
  constructor
  · rwa [h.phase, h.q]
  · rwa [h.phase, h.q, h.x, hS]
  · rwa [h.phase, h.x, hS]
  · rwa [hb, h.gen, h.counter, h.valid, h.err]
  · rwa [h.gen, h.key, h.counter, h.nonce, h.out]
  · rwa [h.gen, h.counter]
  · simpa only [h.out, hblock] using hown
  · simpa only [h.valid, h.gen, h.out, hblock] using hvalid

/-- While PHASE = IDLE the invariant asks nothing of X, q and ERR (10_state.md R31). -/
theorem State.inv_of_idle {s : State} (hp : s.phase = .idle)
    (huntouched : s.gen = .uninit →
      s.key = Vector.replicate 8 0 ∧ s.counter = 0 ∧ s.nonce = Vector.replicate 2 0 ∧ s.out = Vector.replicate 64 0)
    (hexhausted : s.gen = .exhausted → s.counter = 0)
    (hown : s.out = Vector.replicate 64 0 ∨ ∃ c, c ≠ 0xFFFFFFFFFFFFFFFF ∧ s.out = s.keystreamBlock c)
    (hvalid : s.valid = true → s.gen = .active ∧ ∃ c, c ≠ 0xFFFFFFFFFFFFFFFF ∧ s.out = s.keystreamBlock c) :
    s.Inv where
  indexInRange h := by simp [hp] at h
  mixing h := by simp [hp] at h
  mixed h := by simp [hp] at h
  running h := by simp [hp] at h
  untouched := huntouched
  exhausted := hexhausted
  outOwn := hown
  validBlock := hvalid

/-- An idle Uninit CORE with its registers zero has the invariant (10_state.md R33). -/
theorem State.inv_of_zeroed {s : State} (hp : s.phase = .idle) (hg : s.gen = .uninit) (hv : s.valid = false)
    (hk : s.key = Vector.replicate 8 0) (hl : s.ctrLo = 0) (hh : s.ctrHi = 0) (hn : s.nonce = Vector.replicate 2 0)
    (ho : s.out = Vector.replicate 64 0) : s.Inv :=
  State.inv_of_idle hp (fun _ => ⟨hk, State.counter_eq_zero hl hh, hn, ho⟩) (fun h => by simp [hg] at h) (.inl ho)
    (fun h => by simp [hv] at h)

/-- Settles O37: the reset state is idle with its registers zero. -/
theorem resetMeetsInvariant : Obligations.ResetMeetsInvariant :=
  State.inv_of_zeroed rfl rfl rfl rfl rfl rfl rfl rfl

/-- A ROUND step applies the next quarter-round of the block (42_round_sequencer.md R74, R76). -/
theorem State.roundStep_x_of_mixing {s : State} (h : s.x = quarterRoundsFrom s.S s.q.toNat) :
    s.roundStep.x = quarterRoundsFrom s.S (s.q.toNat + 1) := by
  rw [State.roundStep_x, h, quarterRoundsFrom]

/-- Before q = 79 a ROUND step makes q one greater, as a number (42_round_sequencer.md R74). -/
theorem State.roundStep_q_toNat {s : State} (h : s.q.toNat < 79) : s.roundStep.q.toNat = s.q.toNat + 1 := by
  have h79 : s.q ≠ 79 := fun hq => by simp [hq] at h
  rw [State.roundStep_q s h79, BitVec.toNat_add]
  have h1 : (1 : BitVec 7).toNat = 1 := rfl
  omega

/-- A ROUND step of a running block keeps the invariant: q + 1 quarter-rounds done, and FINAL when they are 80. -/
theorem State.Inv.roundStep {s : State} (hi : s.Inv) (hp : s.phase = .round) : s.roundStep.Inv := by
  obtain ⟨hg, hc, hv, he⟩ := hi.running (by simp [hp])
  have hS : s.roundStep.S = s.S := State.S_congr s.roundStep_key s.roundStep_counter s.roundStep_nonce
  have hx := State.roundStep_x_of_mixing (hi.mixing hp)
  have hphase := State.roundStep_phase s hp
  have hq := hi.indexInRange hp
  have hrunning : s.roundStep.phase = .round → s.q.toNat < 79 := fun hr => by
    rw [hphase] at hr
    refine lt_of_le_of_ne hq fun h => ?_
    rw [if_pos (BitVec.eq_of_toNat_eq h)] at hr
    cases hr
  have hlast : s.roundStep.phase = .final → s.q = 79 := fun hf => by
    rw [hphase] at hf
    by_contra h
    rw [if_neg h] at hf
    cases hf
  constructor
  case indexInRange => exact fun hr => State.roundStep_q_toNat (hrunning hr) ▸ hrunning hr
  case mixing => exact fun hr => by rw [hx, hS, State.roundStep_q_toNat (hrunning hr)]
  case mixed => exact fun hf => by rw [hx, hS, hlast hf]; rfl
  case running => exact fun _ => by rw [State.roundStep_counter]; simpa [hg, hv, he] using hc
  case untouched => exact fun h => by simp [hg] at h
  case exhausted => exact fun h => by simp [hg] at h
  case validBlock => exact fun h => by simp [hv] at h
  case outOwn =>
    simp only [State.roundStep_out, State.keystreamBlock_congr s.roundStep_key s.roundStep_nonce]
    exact hi.outOwn

/-- The FINAL step of a running block leaves its keystream block in OUT (42_round_sequencer.md R77). -/
theorem State.Inv.finalStep {s : State} (hi : s.Inv) (hp : s.phase = .final) : s.finalStep.Inv := by
  obtain ⟨hg, hc, -, -⟩ := hi.running (by simp [hp])
  have hblock : ∃ c, c ≠ 0xFFFFFFFFFFFFFFFF ∧ s.finalStep.out = s.finalStep.keystreamBlock c := by
    refine ⟨s.counter, hc, ?_⟩
    rw [State.keystreamBlock_congr s.finalStep_key s.finalStep_nonce]
    exact State.finalStep_out_of_mixed (hi.mixed hp)
  exact State.inv_of_idle s.finalStep_phase (fun h => by simp [hg] at h) (fun h => by simp [hg] at h) (.inr hblock)
    (fun _ => ⟨hg, hblock⟩)

/-- The sequencer's step keeps the invariant in every phase. -/
theorem State.Inv.sequencerStep {s : State} (hi : s.Inv) : s.sequencerStep.Inv := by
  obtain hp | hp | hp : s.phase = .idle ∨ s.phase = .round ∨ s.phase = .final := by cases s.phase <;> simp
  · rwa [State.sequencerStep_idle hp]
  · rw [State.sequencerStep_round hp]
    exact hi.roundStep hp
  · rw [State.sequencerStep_final hp]
    exact hi.finalStep hp

/-- Accepting a word keeps the invariant: the outcomes leave CORE idle but for the LOAD of a block, where X = S and
q = 0. -/
theorem State.Inv.accepts {s u : State} {d : Decoded} (hi : s.Inv) (hp : s.phase = .idle) (h : Accepts s d u) :
    u.Inv := by
  have ha := hi.of_sameRegisters (.accept s)
  cases h with
  | constructs hd =>
    exact State.inv_of_idle hp (fun h => by simp at h) (fun h => by simp at h) (.inl rfl) (fun h => by simp at h)
  | exhausts hg hc =>
    exact State.inv_of_idle hp (fun h => by simp at h) (fun _ => by simp) ha.outOwn (fun h => by simp at h)
  | starts hg hc =>
    constructor
    case indexInRange => exact fun _ => Nat.zero_le _
    case mixing => exact fun _ => rfl
    case mixed => exact fun h => by simp at h
    case running => exact fun _ => ⟨hg, hc, rfl, rfl⟩
    case untouched => exact fun h => by simp [hg] at h
    case exhausted => exact fun h => by simp [hg] at h
    case validBlock => exact fun h => by simp at h
    case outOwn => exact ha.outOwn
  | nextFails hg => exact State.inv_of_idle hp ha.untouched ha.exhausted ha.outOwn (fun h => by simp at h)
  | loads hg =>
    exact State.inv_of_idle hp (fun h => by simp [hg] at h) (fun h => by simp [hg] at h) ha.outOwn ha.validBlock
  | fails hi hn hs => exact State.inv_of_idle hp ha.untouched ha.exhausted ha.outOwn ha.validBlock

/-- Settles O38: reset establishes the invariant; the sequencer's step and every acceptance keep it. -/
theorem stepKeepsInvariant : Obligations.StepKeepsInvariant := by
  unfold Obligations.StepKeepsInvariant
  intro s t hi h
  rcases step_effect h with ⟨hr, rfl⟩ | ⟨hr, ha, ht⟩ | ⟨d, u, hr, hp, ha, hu, ht⟩
  · exact State.inv_of_zeroed rfl rfl rfl rfl rfl rfl rfl rfl
  · exact hi.sequencerStep.of_sameRegisters ht
  · exact (hi.accepts hp hu).of_sameRegisters ht

/-! ### Every step answers, so every run from the invariant is safe (60_exceptions.md R90, R100) -/

/-- Command(v) ends in no fault and no refusal. -/
theorem exists_commandWrite (v : Word) (s : State) : ∃ u, commandWrite v s = .next u := by
  cases hb : s.busy with
  | true => exact ⟨_, commandWrite_busy v s hb⟩
  | false =>
    cases hd : decode v with
    | command i =>
      rw [commandWrite_command hb hd]
      cases he : exec i s.accept with
      | next u => exact ⟨u, rfl⟩
      | fault f => exact absurd he (exec_ne_fault i _ f)
      | refused r => exact absurd he (exec_ne_refused i _ r)
    | illegal why => exact ⟨_, commandWrite_illegal hb hd⟩

/-- The host's side of a cycle answers a next state: a bus error is only an answer (60_exceptions.md R90). -/
theorem exists_hostSide (a : Option Access) (s : State) : ∃ h, hostSide a s = .next h := by
  cases hw : cmdWordOf s.page a with
  | none =>
    obtain ⟨h, hh, -⟩ := hostSide_noCommand a s hw
    exact ⟨h, hh⟩
  | some v =>
    cases a with
    | none => cases hw
    | some a =>
      obtain ⟨u, hu⟩ := exists_commandWrite v s
      exact ⟨{ u with response := .done }, by simp only [hostSide, hostAccess_cmd hw, hu, writeDone]⟩

/-- A cycle without reset lands what the host's side and the sequencer do. -/
theorem step_of_hostSide {s h : State} (hr : s.nextInput.rst = false) (hh : hostSide s.nextInput.access s = .next h) :
    step s = .next (s.land h).consumeInput := by
  simp [step, cycle, hr, hh]

/-- No input stops CORE. -/
theorem exists_step (s : State) : ∃ t, step s = .next t := by
  cases hr : s.nextInput.rst with
  | true => exact ⟨_, step_of_reset hr⟩
  | false =>
    obtain ⟨h, hh⟩ := exists_hostSide s.nextInput.access s
    exact ⟨_, step_of_hostSide hr hh⟩

/-- Settles O9, by induction on the number of steps: each answers a next state with the invariant. -/
theorem runsAreSafe : Obligations.RunsAreSafe := by
  unfold Obligations.RunsAreSafe
  intro n
  induction n with
  | zero => exact fun s hi => ⟨s, rfl, hi⟩
  | succ n ih =>
    intro s hi
    obtain ⟨t, ht⟩ := exists_step s
    obtain ⟨u, hu, hui⟩ := ih t (stepKeepsInvariant s t hi ht)
    exact ⟨u, (runCycles_succ n ht).trans hu, hui⟩

end Sys2Proof.Machine
end

/-! ### A block in progress (10_state.md R21, R27, 42_round_sequencer.md R76, 70_reset_and_hazards.md R110) -/

section
namespace Sys2Proof.Machine

/-- Every step consumes its input and leaves CORE_BASE alone. -/
theorem step_environment {s t : State} (h : step s = .next t) : t.inputs = s.inputs.tail ∧ t.page = s.page := by
  rcases step_cases h with ⟨-, rfl⟩ | ⟨-, -, u, ⟨ks, is, cs, r, rfl⟩, rfl⟩ | ⟨-, -, rfl⟩ | ⟨i, u, -, -, -, he, rfl⟩ |
    ⟨why, -, -, -, rfl⟩
  · exact ⟨rfl, rfl⟩
  · simp
  · simp
  · exact ⟨rfl, (exec_environment he).2.1⟩
  · exact ⟨rfl, rfl⟩

/-- `u` is `j` quarter-rounds into the block that was loaded in `b`: PHASE and q say so, X is mixed so far, and every
other register of CORE is as at the LOAD. -/
structure MidBlock (b : State) (j : Nat) (u : State) : Prop where
  progress : (u.phase = .round ∧ u.q.toNat = j ∧ j < 80) ∨ (u.phase = .final ∧ j = 80)
  x : u.x = quarterRoundsFrom b.S j
  key : u.key = b.key
  counter : u.counter = b.counter
  nonce : u.nonce = b.nonce
  out : u.out = b.out
  gen : u.gen = b.gen
  valid : u.valid = b.valid
  err : u.err = b.err

theorem MidBlock.S {b u : State} {j : Nat} (h : MidBlock b j u) : u.S = b.S :=
  State.S_congr h.key h.counter h.nonce

/-- A block in progress is BUSY (10_state.md R27). -/
theorem MidBlock.busy {b u : State} {j : Nat} (h : MidBlock b j u) : u.busy = true := by
  rcases h.progress with ⟨hp, -, -⟩ | ⟨hp, -⟩ <;> simp [hp]

/-- The block in progress is a matter of CORE's own registers. -/
theorem MidBlock.of_sameRegisters {b u t : State} {j : Nat} (h : MidBlock b j u) (ht : SameRegisters u t) :
    MidBlock b j t where
  progress := by simpa only [ht.phase, ht.q] using h.progress
  x := ht.x.trans h.x
  key := ht.key.trans h.key
  counter := ht.counter.trans h.counter
  nonce := ht.nonce.trans h.nonce
  out := ht.out.trans h.out
  gen := ht.gen.trans h.gen
  valid := ht.valid.trans h.valid
  err := ht.err.trans h.err

/-- The LOAD of a block, before its first quarter-round (40_commands.md R63). -/
theorem midBlock_startBlock (s : State) : MidBlock s.startBlock 0 s.startBlock where
  progress := .inl ⟨rfl, rfl, by decide⟩
  x := rfl
  key := rfl
  counter := rfl
  nonce := rfl
  out := rfl
  gen := rfl
  valid := rfl
  err := rfl

/-- A ROUND step is one quarter-round further (42_round_sequencer.md R74). -/
theorem MidBlock.roundStep {b u : State} {j : Nat} (h : MidBlock b j u) (hj : j < 80) :
    MidBlock b (j + 1) u.roundStep := by
  have hround : u.phase = .round ∧ u.q.toNat = j := by
    rcases h.progress with ⟨hp, hq, -⟩ | ⟨-, h80⟩
    · exact ⟨hp, hq⟩
    · omega
  obtain ⟨hp, hq⟩ := hround
  have hphase := State.roundStep_phase u hp
  constructor
  case progress =>
    rcases Nat.lt_or_ge j 79 with hlt | hge
    · have h79 : u.q ≠ 79 := fun h => by simp [h] at hq; omega
      exact .inl ⟨by rw [hphase, if_neg h79], by rw [State.roundStep_q_toNat (hq ▸ hlt), hq], by omega⟩
    · have hj79 : j = 79 := by omega
      have h79 : u.q = 79 := BitVec.eq_of_toNat_eq (hq.trans hj79)
      exact .inr ⟨by rw [hphase, if_pos h79], by omega⟩
  case x =>
    rw [← hq, ← h.S]
    exact State.roundStep_x_of_mixing (by rw [h.x, h.S, hq])
  case key => exact u.roundStep_key.trans h.key
  case counter => exact u.roundStep_counter.trans h.counter
  case nonce => exact u.roundStep_nonce.trans h.nonce
  case out => exact u.roundStep_out.trans h.out
  case gen => exact u.roundStep_gen.trans h.gen
  case valid => exact u.roundStep_valid.trans h.valid
  case err => exact u.roundStep_err.trans h.err

/-- While CORE is busy no command is accepted, so a cycle without reset is the sequencer's, whatever the access. -/
theorem step_of_busy {s t : State} (hb : s.busy = true) (hr : s.nextInput.rst = false) (h : step s = .next t) :
    SameRegisters s.sequencerStep t := by
  rcases step_effect h with ⟨hr', -⟩ | ⟨-, -, ht⟩ | ⟨d, u, -, hp, -, -, -⟩
  · simp [hr] at hr'
  · exact ht
  · simp [hp] at hb

/-- A cycle without reset brings a block one quarter-round further until all 80 are done. -/
theorem MidBlock.step {b u t : State} {j : Nat} (h : MidBlock b j u) (hj : j < 80) (hr : u.nextInput.rst = false)
    (hstep : step u = .next t) : MidBlock b (j + 1) t := by
  have hp : u.phase = .round := by
    rcases h.progress with ⟨hp, -, -⟩ | ⟨-, h80⟩
    · exact hp
    · omega
  have ht := step_of_busy h.busy hr hstep
  rw [State.sequencerStep_round hp] at ht
  exact (h.roundStep hj).of_sameRegisters ht

/-- With no reset among the next inputs the present cycle has none; with no input left it is idle. -/
theorem State.nextInput_rst_of_take {s : State} {n : Nat} (h : ∀ c ∈ s.inputs.take (n + 1), c.rst = false) :
    s.nextInput.rst = false := by
  unfold State.nextInput
  cases hin : s.inputs with
  | nil => rfl
  | cons c rest => exact h c (by simp [hin])

/-- `n` cycles without reset bring a block `n` quarter-rounds further. -/
theorem MidBlock.runCycles {b : State} (n : Nat) {u : State} {j : Nat} (h : MidBlock b j u) (hj : j + n ≤ 80)
    (hr : ∀ c ∈ u.inputs.take n, c.rst = false) : ∃ t, runCycles n u = .next t ∧ MidBlock b (j + n) t := by
  induction n generalizing u j with
  | zero => exact ⟨u, rfl, h⟩
  | succ n ih =>
    obtain ⟨t, ht⟩ := exists_step u
    have hmid := h.step (by omega) (State.nextInput_rst_of_take hr) ht
    have hrest : ∀ c ∈ t.inputs.take n, c.rst = false := by
      intro c hc
      rw [(step_environment ht).1] at hc
      cases hin : u.inputs with
      | nil => simp [hin] at hc
      | cons c' rest => exact hr c (by rw [hin] at hc ⊢; exact List.mem_cons_of_mem _ hc)
    obtain ⟨v, hv, hmidv⟩ := ih hmid (by omega) hrest
    exact ⟨v, (runCycles_succ n ht).trans hv, by rwa [Nat.add_right_comm] at hmidv⟩

/-- An accepted command came without reset. -/
theorem State.rst_of_accepted {s : State} {d : Decoded} (h : s.accepted = some d) : s.nextInput.rst = false := by
  cases hr : s.nextInput.rst with
  | false => rfl
  | true => simp [State.accepted, State.cmdWrite, hr] at h

/-- The step that accepts a NEXT that starts a block leaves the LOAD (40_commands.md R63). -/
theorem step_of_startsBlock {s t : State} (hs : s.startsBlock) (h : step s = .next t) :
    SameRegisters s.accept.clearValid.startBlock t := by
  obtain ⟨hacc, hactive, hcounter⟩ := hs
  rcases step_effect h with ⟨hr, -⟩ | ⟨-, ha, -⟩ | ⟨d, u, -, -, ha, hu, ht⟩
  · simp [State.rst_of_accepted hacc] at hr
  · simp [ha] at hacc
  · obtain rfl : d = .command .next := Option.some.inj (ha.symm.trans hacc)
    cases hu with
    | constructs hd => cases hd
    | exhausts hg hc => exact absurd hc hcounter
    | starts hg hc => exact ht
    | nextFails hg => exact absurd hactive hg
    | fails hi hn hs => exact absurd rfl hn

/-- The cycle that writes the word of NEXT to CMD of an idle Active CORE starts a block. -/
theorem State.startsBlock_of_cmd {s : State} {rest : List CycleInput}
    (hi : s.inputs = .ofAccess (.cmd s.page 0x00000002) :: rest) (hp : s.phase = .idle) (hg : s.gen = .active)
    (hc : s.counter ≠ 0xFFFFFFFFFFFFFFFF) : s.startsBlock := by
  have hd : decode 0x00000002 = .command .next := by decide
  refine ⟨?_, hg, hc⟩
  rw [State.accepted, State.cmdWrite_cmd hi, (s.busy_eq_false).2 hp, if_neg Bool.false_ne_true, Option.map_some, hd]

/-- Settles O30: after the LOAD every cycle is one quarter-round further into the block, and none of them writes S or
OUT. -/
theorem busyKeepsStateAndOut : Obligations.BusyKeepsStateAndOut := by
  unfold Obligations.BusyKeepsStateAndOut
  intro s during rest k hi hlen hduring hp hg hc hk1 hk81
  obtain ⟨n, rfl⟩ : ∃ n, k = n + 1 := ⟨k - 1, by omega⟩
  obtain ⟨t, ht⟩ := exists_step s
  have hload := step_of_startsBlock (State.startsBlock_of_cmd hi hp hg hc) ht
  have hstart := (midBlock_startBlock s.accept.clearValid).of_sameRegisters hload
  have hrst : ∀ c ∈ t.inputs.take n, c.rst = false := by
    intro c hcn
    rw [(step_environment ht).1, hi, List.tail_cons, List.take_append_of_le_length (by omega)] at hcn
    exact hduring c (List.mem_of_mem_take hcn)
  obtain ⟨u, hu, hmid⟩ := hstart.runCycles n (by omega) hrst
  exact ⟨u, (runCycles_succ n ht).trans hu, hmid.busy, hmid.valid, hmid.out, hmid.S⟩

end Sys2Proof.Machine
end

/-! ### What the host's writes store (10_state.md R23, 20_memory.md R37, R43) -/

section
namespace Sys2Proof.Machine

/-- The staging registers are the offsets below 0x30 (20_memory.md R35). -/
theorem region_staging {off : Offset} (h : off.toNat < 0x30) :
    (∃ k, region off = .keystg k) ∨ (∃ k, region off = .ivstg k) ∨ ∃ k, region off = .ctrstg k := by
  unfold region
  split_ifs
  · exact .inl ⟨_, rfl⟩
  · exact .inr (.inl ⟨_, rfl⟩)
  · exact .inr (.inr ⟨_, rfl⟩)

/-- A byte write is admitted to the staging registers only, by the register map (20_memory.md R35, R38). -/
theorem admitted_byte_write (off : Offset) : admitted off .byte .write = decide (off.toNat < 0x30) := by
  unfold admitted region
  split_ifs <;> simp [byteAdmitted] <;> omega

/-- A word write is admitted at the aligned offsets of the staging registers and CMD only (20_memory.md R35, R38). -/
theorem admitted_word_write (off : Offset) :
    admitted off .word .write = decide (off.toNat % 4 = 0 ∧ off.toNat < 0x34) := by
  unfold admitted region
  split_ifs <;> simp [wordAdmitted] <;> omega

/-- An access that is not admitted is a bus error (20_memory.md R38). -/
theorem hostWrite_of_not_admitted {off : Offset} {w : Width} (v : Word) (s : State)
    (h : admitted off w .write = false) : hostWrite off w v s = .fault .busError := by
  simp [hostWrite, h]

/-- A byte write to staging stores its byte (20_memory.md R43). -/
theorem hostWrite_byte {off : Offset} (v : Word) (s : State) (h : off.toNat < 0x30) :
    hostWrite off .byte v s = .next { s.storeByte off (byteOf v 0) with response := .done } := by
  have ha : admitted off .byte .write = true := by rw [admitted_byte_write]; exact decide_eq_true h
  unfold hostWrite
  rw [if_pos ha]
  rcases region_staging h with ⟨k, hr⟩ | ⟨k, hr⟩ | ⟨k, hr⟩ <;> rw [hr] <;> rfl

/-- An aligned word write to staging stores its four bytes (20_memory.md R37, R43). -/
theorem hostWrite_word {off : Offset} (v : Word) (s : State) (h : off.toNat < 0x30) (h4 : off.toNat % 4 = 0) :
    hostWrite off .word v s = .next { s.storeWord off v with response := .done } := by
  have ha : admitted off .word .write = true := by rw [admitted_word_write]; exact decide_eq_true ⟨h4, by omega⟩
  unfold hostWrite
  rw [if_pos ha]
  rcases region_staging h with ⟨k, hr⟩ | ⟨k, hr⟩ | ⟨k, hr⟩ <;> rw [hr] <;> rfl

/-- An aligned word's four bytes read back at their offsets, and every other byte is left alone (20_memory.md R37). -/
theorem State.storedByte_storeWord (s : State) (off o : Offset) (v : Word) (h : off.toNat < 0x30)
    (h4 : off.toNat % 4 = 0) :
    (s.storeWord off v).storedByte o =
      if off.toNat ≤ o.toNat ∧ o.toNat < off.toNat + 4 then some (byteOf v (o.toNat - off.toNat))
      else s.storedByte o := by
  have h1 : (off + 1).toNat = off.toNat + 1 := by
    rw [BitVec.toNat_add]; exact Nat.mod_eq_of_lt (by simp; omega)
  have h2 : (off + 2).toNat = off.toNat + 2 := by
    rw [BitVec.toNat_add]; exact Nat.mod_eq_of_lt (by simp; omega)
  have h3 : (off + 3).toNat = off.toNat + 3 := by
    rw [BitVec.toNat_add]; exact Nat.mod_eq_of_lt (by simp; omega)
  rw [State.storeWord, State.storedByte_storeByte _ _ _ _ (by omega), State.storedByte_storeByte _ _ _ _ (by omega),
    State.storedByte_storeByte _ _ _ _ (by omega), State.storedByte_storeByte _ _ _ _ h]
  simp only [← BitVec.toNat_inj, h1, h2, h3]
  by_cases hin : off.toNat ≤ o.toNat ∧ o.toNat < off.toNat + 4
  · rw [if_pos hin]
    obtain hj | hj | hj | hj : o.toNat = off.toNat ∨ o.toNat = off.toNat + 1 ∨ o.toNat = off.toNat + 2 ∨
        o.toNat = off.toNat + 3 := by omega
    all_goals simp [hj]
  · rw [if_neg hin, if_neg (by omega), if_neg (by omega), if_neg (by omega), if_neg (by omega)]

/-- A staging byte is a matter of the three staging registers. -/
theorem State.storedByte_congr {s t : State} {off : Offset} (h : off.toNat < 0x30) (hk : t.keystg = s.keystg)
    (hi : t.ivstg = s.ivstg) (hc : t.ctrstg = s.ctrstg) : t.storedByte off = s.storedByte off := by
  unfold State.storedByte
  rcases region_staging h with ⟨k, hr⟩ | ⟨k, hr⟩ | ⟨k, hr⟩ <;> simp [hr, hk, hi, hc]

/-- The answer the host sees is none of the stored bytes. -/
theorem State.storedByte_answer (s : State) (r : Response) (off : Offset) :
    State.storedByte { s with response := r } off = s.storedByte off := rfl

/-- Command(v) writes no staging register (10_state.md R23). -/
theorem commandWrite_keeps_staging {v : Word} {s u : State} (h : commandWrite v s = .next u) :
    u.keystg = s.keystg ∧ u.ivstg = s.ivstg ∧ u.ctrstg = s.ctrstg := by
  cases hb : s.busy with
  | true =>
    rw [commandWrite_busy v s hb] at h
    cases h
    exact ⟨rfl, rfl, rfl⟩
  | false =>
    cases hd : decode v with
    | command i =>
      rw [commandWrite_command hb hd] at h
      obtain ⟨hk, hi, hc, -⟩ := exec_keeps_staging h
      exact ⟨hk, hi, hc⟩
    | illegal why =>
      rw [commandWrite_illegal hb hd] at h
      cases h
      exact ⟨rfl, rfl, rfl⟩

/-- A performed write answers `done` and leaves the command's state otherwise. -/
theorem writeDone_eq_next {r : Host.Outcome State Fault Refusal} {h : State} (hd : writeDone r = .next h) :
    ∃ u, r = .next u ∧ h = { u with response := .done } := by
  cases r with
  | next u => exact ⟨u, rfl, by cases hd; rfl⟩
  | fault f => cases hd
  | refused r => cases hd

/-- The host's side is the access's effect, or the access was a fault and is only answered so (60_exceptions.md R90). -/
theorem hostSide_some_cases {a : Access} {s h : State} (hh : hostSide (some a) s = .next h) :
    hostAccess a s = .next h ∨ ∃ f, hostAccess a s = .fault f ∧ h = { s with response := .fault f } := by
  unfold hostSide at hh
  cases ha : hostAccess a s with
  | next u => exact .inl (by simpa [ha] using hh)
  | fault f => exact .inr ⟨f, rfl, by simpa [ha] using hh.symm⟩
  | refused r => simp [ha] at hh

/-- The byte a byte write stores (20_memory.md R43). -/
theorem stagedBy_byte {page addr : Nat} {o : Offset} (ho : offsetOf page addr = some o) (v : Word) (off : Offset) :
    stagedBy page (some ⟨.write, .byte, addr, v⟩) off = if off = o then some (byteOf v 0) else none := by
  simp [stagedBy, ho, byteOf, eq_comm]

/-- The byte a word write stores at each of its four offsets (20_memory.md R37). -/
theorem stagedBy_word {page addr : Nat} {o : Offset} (ho : offsetOf page addr = some o) (v : Word) (off : Offset) :
    stagedBy page (some ⟨.write, .word, addr, v⟩) off =
      if o.toNat % 4 = 0 ∧ o.toNat ≤ off.toNat ∧ off.toNat < o.toNat + 4 then some (byteOf v (off.toNat - o.toNat))
      else none := by
  simp [stagedBy, ho, byteOf]

/-- An access outside the window stores nothing (20_memory.md R45). -/
theorem stagedBy_outside {page : Nat} {a : Access} (ho : offsetOf page a.addr = none) (off : Offset) :
    stagedBy page (some a) off = none := by
  obtain ⟨kind, w, addr, v⟩ := a
  cases kind <;> cases w <;> simp [stagedBy, show offsetOf page addr = none from ho]

/-- A performed write leaves at every staging offset the byte it stores there, or what was there. -/
theorem hostWrite_storedByte {page addr : Nat} {o off : Offset} {w : Width} {v : Word} {s h : State}
    (ho : offsetOf page addr = some o) (hoff : off.toNat < 0x30) (hw : hostWrite o w v s = .next h) :
    h.storedByte off = (stagedBy page (some ⟨.write, w, addr, v⟩) off).or (s.storedByte off) := by
  cases w with
  | other n => simp [hostWrite_of_not_admitted v s (show admitted o (.other n) .write = false from rfl)] at hw
  | byte =>
    by_cases hs : o.toNat < 0x30
    · rw [hostWrite_byte v s hs] at hw
      cases hw
      refine (State.storedByte_answer _ _ _).trans ?_
      rw [State.storedByte_storeByte s o off _ hs, stagedBy_byte ho]
      split <;> rfl
    · simp [hostWrite_of_not_admitted v s ((admitted_byte_write o).trans (decide_eq_false hs))] at hw
  | word =>
    by_cases ha : o.toNat % 4 = 0 ∧ o.toNat < 0x34
    · obtain ⟨h4, h34⟩ := ha
      rw [stagedBy_word ho]
      by_cases hs : o.toNat < 0x30
      · rw [hostWrite_word v s hs h4] at hw
        cases hw
        refine (State.storedByte_answer _ _ _).trans ?_
        rw [State.storedByte_storeWord s o off v hs h4]
        simp only [h4, true_and]
        split <;> rfl
      · obtain rfl : o = 0x30 := BitVec.eq_of_toNat_eq (by simp; omega)
        rw [hostWrite_cmd] at hw
        obtain ⟨u, hu, rfl⟩ := writeDone_eq_next hw
        obtain ⟨hk, hi, hc⟩ := commandWrite_keeps_staging hu
        rw [if_neg (by simp; omega)]
        exact State.storedByte_congr hoff hk hi hc
    · simp [hostWrite_of_not_admitted v s ((admitted_word_write o).trans (decide_eq_false ha))] at hw

/-- A write that is a bus error stores nothing in staging (60_exceptions.md R90). -/
theorem stagedBy_of_fault {page addr : Nat} {o off : Offset} {w : Width} {v : Word} {s : State} {f : Fault}
    (ho : offsetOf page addr = some o) (hoff : off.toNat < 0x30) (hw : hostWrite o w v s = .fault f) :
    stagedBy page (some ⟨.write, w, addr, v⟩) off = none := by
  cases w with
  | other n => rfl
  | byte =>
    rw [stagedBy_byte ho]
    refine if_neg fun h => ?_
    rw [hostWrite_byte v s (h ▸ hoff)] at hw
    cases hw
  | word =>
    rw [stagedBy_word ho]
    refine if_neg fun ⟨h4, hle, _⟩ => ?_
    rw [hostWrite_word v s (by omega) h4] at hw
    cases hw

/-- The host's side of a cycle leaves at every staging offset the byte its access stores there, or what was there. -/
theorem hostSide_storedByte {a : Option Access} {s h : State} {off : Offset} (hoff : off.toNat < 0x30)
    (hh : hostSide a s = .next h) : h.storedByte off = (stagedBy s.page a off).or (s.storedByte off) := by
  cases a with
  | none =>
    cases hh
    exact s.storedByte_answer _ off
  | some a =>
    obtain ⟨kind, w, addr, v⟩ := a
    have hacc := hostSide_some_cases hh
    unfold hostAccess at hacc
    cases ho : offsetOf s.page addr with
    | none =>
      rw [stagedBy_outside ho]
      simp only [ho] at hacc
      rcases hacc with hn | ⟨f, hf, -⟩
      · cases hn
        exact s.storedByte_answer _ off
      · cases hf
    | some o =>
      simp only [ho] at hacc
      cases kind with
      | read =>
        have hnone : stagedBy s.page (some ⟨.read, w, addr, v⟩) off = none := by cases w <;> rfl
        rw [hnone]
        rcases hacc with hn | ⟨f, -, rfl⟩
        · rcases hostRead_cases o w s with ⟨r, hr⟩ | hr
          · rw [hr] at hn
            cases hn
            exact s.storedByte_answer r off
          · rw [hr] at hn
            cases hn
        · exact s.storedByte_answer _ off
      | write =>
        rcases hacc with hn | ⟨f, hf, rfl⟩
        · exact hostWrite_storedByte ho hoff hn
        · rw [stagedBy_of_fault ho hoff hf]
          exact s.storedByte_answer _ off

/-- After a reset every byte of the register files is 0 (10_state.md R33). -/
theorem State.storedByte_of_zeroed {s : State} {off : Offset} (hk : s.keystg = Vector.replicate 32 0)
    (hi : s.ivstg = Vector.replicate 8 0) (hc : s.ctrstg = Vector.replicate 8 0) (ho : s.out = Vector.replicate 64 0)
    (hoff : off.toNat < 0x30 ∨ (0x40 ≤ off.toNat ∧ off.toNat < 0x80)) : s.storedByte off = some 0 := by
  unfold State.storedByte
  cases hr : region off with
  | keystg k => simp [hk]
  | ivstg k => simp [hi]
  | ctrstg k => simp [hc]
  | out k => simp [ho]
  | cmd => have := (region_eq_cmd off).1 hr; omega
  | status => have := (region_eq_status off).1 hr; omega
  | reserved => have := (region_eq_reserved off).1 hr; omega

/-- Settles O44: a cycle without reset lands the staging registers of the host's side, and reset zeroes them. -/
theorem stagingWriters : Obligations.StagingWriters := by
  unfold Obligations.StagingWriters
  intro s t off h hoff
  cases hr : s.nextInput.rst with
  | true =>
    rw [step_of_reset hr] at h
    cases h
    exact State.storedByte_of_zeroed rfl rfl rfl rfl (.inl hoff)
  | false =>
    obtain ⟨u, hu⟩ := exists_hostSide s.nextInput.access s
    rw [step_of_hostSide hr hu] at h
    cases h
    rw [if_neg Bool.false_ne_true, ← hostSide_storedByte hoff hu]
    exact State.storedByte_congr hoff (s.land_keystg u) (s.land_ivstg u) (s.land_ctrstg u)

end Sys2Proof.Machine
end

/-! ### What an access answers (20_memory.md R41, R42, 60_exceptions.md R90, R95) -/

section
namespace Sys2Proof.Machine

/-- What the window answers an access in a cycle without reset: the bytes a read shows, `done` for an admitted write, a
fault for what is not admitted, and nothing outside the window. -/
def State.answer (s : State) : Option Access → Response
  | none => .none
  | some ⟨kind, w, addr, _⟩ =>
    match offsetOf s.page addr with
    | none => .none
    | some off =>
      if admitted off w kind then
        match kind, w with
        | .read, .byte => .data8 (s.readByte off)
        | .read, .word => .data32 (s.readWord off)
        | .read, .other _ => .fault .busError
        | .write, _ => .done
      else .fault .busError

/-- An admitted write is performed, never a fault. -/
theorem exists_hostWrite {off : Offset} {w : Width} (v : Word) (s : State) (h : admitted off w .write = true) :
    ∃ u : State, hostWrite off w v s = .next { u with response := .done } := by
  cases w with
  | other n => cases h
  | byte =>
    rw [admitted_byte_write, decide_eq_true_eq] at h
    exact ⟨_, hostWrite_byte v s h⟩
  | word =>
    rw [admitted_word_write, decide_eq_true_eq] at h
    obtain ⟨h4, h34⟩ := h
    by_cases hs : off.toNat < 0x30
    · exact ⟨_, hostWrite_word v s hs h4⟩
    · obtain rfl : off = 0x30 := BitVec.eq_of_toNat_eq (by simp; omega)
      obtain ⟨u, hu⟩ := exists_commandWrite v s
      exact ⟨u, by rw [hostWrite_cmd, hu, writeDone]⟩

/-- An access that is not admitted to the window is a bus error, a read as well as a write (20_memory.md R38). -/
theorem hostAccess_of_not_admitted {a : Access} {s : State} {off : Offset} (ho : offsetOf s.page a.addr = some off)
    (h : admitted off a.width a.kind = false) : hostAccess a s = .fault .busError := by
  unfold hostAccess
  simp only [ho]
  cases hk : a.kind with
  | read =>
    rw [hk] at h
    simp [hostRead, h]
  | write => exact hostWrite_of_not_admitted a.data s (hk ▸ h)

/-- The host's side of a cycle gives its access the window's answer. -/
theorem hostSide_response {a : Option Access} {s h : State} (hh : hostSide a s = .next h) :
    h.response = s.answer a := by
  cases a with
  | none =>
    cases hh
    rfl
  | some a =>
    obtain ⟨kind, w, addr, v⟩ := a
    unfold hostSide at hh
    unfold State.answer
    cases ho : offsetOf s.page addr with
    | none =>
      simp only [hostAccess, ho] at hh ⊢
      cases hh
      rfl
    | some off =>
      cases hadm : admitted off w kind with
      | false =>
        simp only [hostAccess_of_not_admitted (a := ⟨kind, w, addr, v⟩) ho hadm] at hh
        cases hh
        simp [ho, hadm]
      | true =>
        simp only [hostAccess, ho] at hh ⊢
        rw [if_pos hadm]
        cases kind with
        | read =>
          simp only [hostRead, hadm, if_true] at hh
          cases w with
          | other n => cases hadm
          | byte => cases hh; rfl
          | word => cases hh; rfl
        | write =>
          obtain ⟨u, hu⟩ := exists_hostWrite v s hadm
          simp only [hu] at hh
          cases hh
          rfl

/-- What a byte read shows depends on OUT only (20_memory.md R41, R42). -/
theorem State.readByte_congr {s s' : State} (ho : s.out = s'.out) (off : Offset) :
    s.readByte off = s'.readByte off := by
  unfold State.readByte
  rw [ho]

/-- What a word read shows depends on OUT and STATUS only (20_memory.md R41, R42). -/
theorem State.readWord_congr {s s' : State} (ho : s.out = s'.out) (hs : s.statusWord = s'.statusWord) (off : Offset) :
    s.readWord off = s'.readWord off := by
  unfold State.readWord
  simp only [hs, State.readByte_congr ho]

/-- An answer depends on OUT, STATUS and CORE_BASE only. -/
theorem State.answer_congr {s s' : State} (hp : s.page = s'.page) (ho : s.out = s'.out)
    (hs : s.statusWord = s'.statusWord) (a : Option Access) : s.answer a = s'.answer a := by
  unfold State.answer
  simp only [hp, State.readByte_congr ho, State.readWord_congr ho hs]

/-- A step without reset records the window's answer to its access. -/
theorem step_response {s t : State} (hr : s.nextInput.rst = false) (h : step s = .next t) :
    t.response = s.answer s.nextInput.access := by
  obtain ⟨u, hu⟩ := exists_hostSide s.nextInput.access s
  rw [step_of_hostSide hr hu] at h
  cases h
  rw [State.consumeInput_response, State.land_response, hostSide_response hu]

/-- Settles O58: the answer is a function of the access, OUT and STATUS. -/
theorem answersHideSecrets : Obligations.AnswersHideSecrets := by
  unfold Obligations.AnswersHideSecrets
  intro s s' t t' hpage hinputs hr hout hgen hvalid herr hovr hphase h h'
  have hnext : s.nextInput = s'.nextInput := by rw [State.nextInput, State.nextInput, hinputs]
  have hstatus : s.statusWord = s'.statusWord := by
    rw [State.statusWord, State.statusWord, State.busy, State.busy, hgen, hvalid, herr, hovr, hphase]
  calc t.response
    _ = s.answer s.nextInput.access := step_response hr h
    _ = s'.answer s'.nextInput.access := by rw [hnext, State.answer_congr hpage hout hstatus]
    _ = t'.response := (step_response (hnext ▸ hr) h').symm

end Sys2Proof.Machine
end

/-! ### STATUS, the constants and reset (10_state.md R14, R25, R27, R33, 60_exceptions.md R87) -/

section
namespace Sys2Proof.Machine

/-- Bit `i` of STATUS by the field it falls in, the fields one after the other (10_state.md R25). -/
theorem State.getLsbD_statusWord (s : State) (i : Nat) :
    s.statusWord.getLsbD i =
      if i < 2 then s.gen.code.getLsbD i else if i < 3 then (BitVec.ofBool s.busy).getLsbD (i - 2)
      else if i < 4 then (BitVec.ofBool s.valid).getLsbD (i - 3) else if i < 8 then false
      else if i < 11 then s.err.code.getLsbD (i - 8) else if i < 16 then false
      else if i < 17 then (BitVec.ofBool s.ovr).getLsbD (i - 16) else false := by
  unfold State.statusWord
  simp only [BitVec.getLsbD_append]
  grind

/-- STATUS[1:0] is the code of STATE. -/
theorem State.statusWord_gen (s : State) : s.statusWord.extractLsb' 0 2 = s.gen.code := by
  refine BitVec.eq_of_getLsbD_eq fun i hi => ?_
  rw [BitVec.getLsbD_extractLsb', State.getLsbD_statusWord]
  simp [hi]

/-- STATUS[10:8] is the code of ERR. -/
theorem State.statusWord_err (s : State) : s.statusWord.extractLsb' 8 3 = s.err.code := by
  refine BitVec.eq_of_getLsbD_eq fun i hi => ?_
  rw [BitVec.getLsbD_extractLsb', State.getLsbD_statusWord]
  interval_cases i <;> simp

theorem State.statusWord_busy (s : State) : s.statusWord.getLsbD 2 = s.busy := by
  rw [State.getLsbD_statusWord]
  simp

theorem State.statusWord_valid (s : State) : s.statusWord.getLsbD 3 = s.valid := by
  rw [State.getLsbD_statusWord]
  simp

theorem State.statusWord_ovr (s : State) : s.statusWord.getLsbD 16 = s.ovr := by
  rw [State.getLsbD_statusWord]
  simp

/-- A field of reserved bits is 0 (10_state.md R25). -/
theorem State.statusWord_reserved (s : State) {start len : Nat}
    (h : (4 ≤ start ∧ start + len ≤ 8) ∨ (11 ≤ start ∧ start + len ≤ 16) ∨ 17 ≤ start) :
    s.statusWord.extractLsb' start len = 0#len := by
  refine BitVec.eq_of_getLsbD_eq fun i hi => ?_
  rw [BitVec.getLsbD_extractLsb', State.getLsbD_statusWord, BitVec.getLsbD_zero]
  grind

/-- Settles O46: each field is the code of its register, and the codes are those of the tables. -/
theorem statusFields : Obligations.StatusFields := by
  unfold Obligations.StatusFields
  intro s
  rw [s.statusWord_gen, s.statusWord_err, s.statusWord_busy, s.busy_eq_true]
  refine ⟨?_, Iff.rfl, s.statusWord_valid, s.statusWord_reserved (by decide), ?_, s.statusWord_reserved (by decide),
    s.statusWord_ovr, s.statusWord_reserved (by decide)⟩
  · cases s.gen <;> decide
  · cases s.err <;> decide

/-- Settles O47: S[0..3] are no field of the state, so each word is a computation on literals. -/
theorem constantsHardwired : Obligations.ConstantsHardwired := by
  unfold Obligations.ConstantsHardwired
  intro s
  refine ⟨rfl, rfl, rfl, rfl, fun k => ?_⟩
  fin_cases k <;> rfl

/-- Settles O48: every register file's bytes are 0 after reset, and STATUS's fields are those of an idle Uninit CORE. -/
theorem resetValues : Obligations.ResetValues := by
  unfold Obligations.ResetValues
  exact ⟨by decide, fun off => State.storedByte_of_zeroed rfl rfl rfl rfl, by decide, rfl, rfl, rfl, rfl, rfl, rfl⟩

end Sys2Proof.Machine
end

/-! ### Which accesses the window admits (20_memory.md R35, R38, R45) -/

section
namespace Sys2Proof.Machine

/-- A byte read is admitted to the staging registers and OUT only, by the register map (20_memory.md R35, R38). -/
theorem admitted_byte_read (off : Offset) :
    admitted off .byte .read = decide (off.toNat < 0x30 ∨ (0x40 ≤ off.toNat ∧ off.toNat < 0x80)) := by
  unfold admitted region
  split_ifs <;> simp [byteAdmitted] <;> omega

/-- A word read is admitted at every aligned offset that names a register (20_memory.md R35, R38). -/
theorem admitted_word_read (off : Offset) :
    admitted off .word .read =
      decide (off.toNat % 4 = 0 ∧ (off.toNat < 0x38 ∨ (0x40 ≤ off.toNat ∧ off.toNat < 0x80))) := by
  unfold admitted region
  split_ifs <;> simp [wordAdmitted] <;> omega

/-- An admitted byte read answers the byte shown and changes nothing else (20_memory.md R40, R41). -/
theorem hostRead_byte {off : Offset} (s : State) (h : admitted off .byte .read = true) :
    hostRead off .byte s = .next { s with response := .data8 (s.readByte off) } := by
  simp [hostRead, h]

/-- An admitted word read answers the word shown and changes nothing else (20_memory.md R40, R41). -/
theorem hostRead_word {off : Offset} (s : State) (h : admitted off .word .read = true) :
    hostRead off .word s = .next { s with response := .data32 (s.readWord off) } := by
  simp [hostRead, h]

/-- An admitted access is performed, a read as well as a write (20_memory.md R38). -/
theorem exists_hostAccess_of_admitted {a : Access} {s : State} {off : Offset} (ho : offsetOf s.page a.addr = some off)
    (h : admitted off a.width a.kind = true) : ∃ t, hostAccess a s = .next t := by
  obtain ⟨kind, w, addr, v⟩ := a
  unfold hostAccess
  simp only [ho]
  cases kind with
  | read =>
    cases w with
    | other n => cases h
    | byte => exact ⟨_, hostRead_byte s h⟩
    | word => exact ⟨_, hostRead_word s h⟩
  | write =>
    obtain ⟨u, hu⟩ := exists_hostWrite v s h
    exact ⟨_, hu⟩

/-- The bus errors are exactly the accesses that are not admitted (20_memory.md R38). -/
theorem hostAccess_eq_busError_iff {a : Access} {s : State} {off : Offset} (ho : offsetOf s.page a.addr = some off) :
    hostAccess a s = .fault .busError ↔ admitted off a.width a.kind = false := by
  refine ⟨fun hf => ?_, hostAccess_of_not_admitted ho⟩
  rw [← Bool.not_eq_true]
  intro hadm
  obtain ⟨t, ht⟩ := exists_hostAccess_of_admitted ho hadm
  rw [ht] at hf
  cases hf

/-- The five cases of the rule are what the register map does not admit (20_memory.md R38). -/
theorem not_admitted_iff (off : Offset) (w : Width) (k : AccessKind) :
    admitted off w k = false ↔
      (∃ n, w = .other n) ∨ (w = .word ∧ off.toNat % 4 ≠ 0) ∨ (w = .byte ∧ 0x30 ≤ off.toNat ∧ off.toNat ≤ 0x37) ∨
      (k = .write ∧ ((0x34 ≤ off.toNat ∧ off.toNat ≤ 0x37) ∨ (0x40 ≤ off.toNat ∧ off.toNat ≤ 0x7F))) ∨
      ((0x38 ≤ off.toNat ∧ off.toNat ≤ 0x3F) ∨ 0x80 ≤ off.toNat) := by
  cases w with
  | other n => simp [admitted]
  | byte =>
    cases k with
    | read => simp [admitted_byte_read]; omega
    | write => simp [admitted_byte_write]; omega
  | word =>
    cases k with
    | read => simp [admitted_word_read]; omega
    | write => simp [admitted_word_write]; omega

/-- Settles O51: a bus error is an access that is not admitted, and an admitted one is performed. -/
theorem busErrorCases : Obligations.BusErrorCases := by
  unfold Obligations.BusErrorCases
  intro a s off ho
  refine ⟨(hostAccess_eq_busError_iff ho).trans (not_admitted_iff off a.width a.kind), ?_, fun hf => ?_⟩
  · cases hadm : admitted off a.width a.kind with
    | false => exact .inl (hostAccess_of_not_admitted ho hadm)
    | true => exact .inr (exists_hostAccess_of_admitted ho hadm)
  · simp [hostSide, hf]

/-- The pending inputs are none of the sequencer's. -/
theorem State.sequencerStep_withInputs (s : State) (inp : List CycleInput) :
    State.sequencerStep { s with inputs := inp } = { s.sequencerStep with inputs := inp } := by
  have h := s.sequencerStep_withHost s.keystg s.ivstg s.ctrstg s.ovr inp s.response
  simpa using h

/-- When the host's side of a cycle only answers, landing both sides is the sequencer's step with that answer. -/
theorem State.land_answer (s : State) (r : Response) :
    s.land { s with response := r } = { s.sequencerStep with response := r } := by
  by_cases hp : s.phase = .idle
  · rw [State.land_idle hp, State.sequencerStep_idle hp]
  · rw [State.land_busy hp]
    simp only [← s.sequencerStep_keystg, ← s.sequencerStep_ivstg, ← s.sequencerStep_ctrstg, ← s.sequencerStep_ovr]

/-- A cycle without reset whose access only gets an answer is the sequencer's step (70_reset_and_hazards.md R104). -/
theorem step_of_answer {s : State} {r : Response} (hr : s.nextInput.rst = false)
    (hh : hostSide s.nextInput.access s = .next { s with response := r }) :
    step s = .next { s.sequencerStep with response := r, inputs := s.inputs.tail } := by
  rw [step_of_hostSide hr hh, State.land_answer]
  simp [State.consumeInput]

/-- An access outside the window gets no answer (20_memory.md R45). -/
theorem hostSide_outside {a : Access} {s : State} (h : offsetOf s.page a.addr = none) :
    hostSide (some a) s = .next { s with response := .none } := by
  simp [hostSide, hostAccess, h]

/-- Settles O53: with the access or without it, the cycle is the sequencer's step with no answer. -/
theorem outsideWindowHasNoEffect : Obligations.OutsideWindowHasNoEffect := by
  unfold Obligations.OutsideWindowHasNoEffect
  intro s a rest hi haddr
  have hn : s.nextInput = .ofAccess a := State.nextInput_cons hi
  have hwith : step s = .next { s.sequencerStep with response := .none, inputs := rest } := by
    have hh : hostSide s.nextInput.access s = .next { s with response := .none } := by
      rw [hn]
      exact hostSide_outside (offsetOf_eq_none s.page a.addr haddr)
    rw [step_of_answer (by rw [hn]; rfl) hh, hi, List.tail_cons]
  have hwithout : step { s with inputs := ⟨false, none⟩ :: rest } =
      .next { s.sequencerStep with response := .none, inputs := rest } := by
    rw [step_of_answer (r := .none) rfl rfl, State.sequencerStep_withInputs, List.tail_cons]
  rw [hwith, hwithout]

end Sys2Proof.Machine
end

/-! ### What a read shows (20_memory.md R36, R37, R41, R42) -/

section
namespace Sys2Proof.Machine

/-- The staging registers show 0 (20_memory.md R42). -/
theorem State.readByte_staging {off : Offset} (s : State) (h : off.toNat < 0x30) : s.readByte off = 0 := by
  unfold State.readByte
  rcases region_staging h with ⟨k, hr⟩ | ⟨k, hr⟩ | ⟨k, hr⟩ <;> rw [hr]

theorem State.readWord_staging {off : Offset} (s : State) (h : off.toNat < 0x30) : s.readWord off = 0 := by
  unfold State.readWord
  rcases region_staging h with ⟨k, hr⟩ | ⟨k, hr⟩ | ⟨k, hr⟩ <;> rw [hr]

/-- Settles O54: the reads are admitted and show 0. -/
theorem writeOnlyReadsZero : Obligations.WriteOnlyReadsZero := by
  unfold Obligations.WriteOnlyReadsZero
  intro off s
  refine ⟨fun h => ?_, fun h h4 => ?_, ?_⟩
  · rw [hostRead_byte s (by rw [admitted_byte_read]; exact decide_eq_true (.inl h)), s.readByte_staging h]
  · rw [hostRead_word s (by rw [admitted_word_read]; exact decide_eq_true ⟨h4, .inl (by omega)⟩), s.readWord_staging h]
  · rintro rfl
    exact hostRead_word s (by decide)

/-- OUT is the offsets 0x40 to 0x7F (20_memory.md R35). -/
theorem exists_region_out {off : Offset} (h : 0x40 ≤ off.toNat) (h' : off.toNat < 0x80) :
    ∃ k : Fin 64, region off = .out k :=
  ⟨⟨off.toNat - 0x40, by omega⟩, (region_eq_out off _).2 (by simp; omega)⟩

/-- A byte of OUT is shown as it is (20_memory.md R41). -/
theorem State.readByte_out {off : Offset} {k : Nat} (s : State) (hk : k < 64) (h : off.toNat = 0x40 + k) :
    s.readByte off = s.out[k] := by
  unfold State.readByte
  rw [(region_eq_out off ⟨k, hk⟩).2 h]
  rfl

/-- A word of OUT is its four bytes little-endian (20_memory.md R37, R41). -/
theorem State.readWord_out {off : Offset} (s : State) (h : 0x40 ≤ off.toNat) (h' : off.toNat < 0x80) :
    s.readWord off =
      le32 (s.readByte off) (s.readByte (off + 1)) (s.readByte (off + 2)) (s.readByte (off + 3)) := by
  obtain ⟨k, hk⟩ := exists_region_out h h'
  unfold State.readWord
  rw [hk]

/-- Word `i` of the output block, at its place in OUT (20_memory.md R37). -/
def State.outWord (s : State) (i : Fin 16) : Word :=
  le32 s.out[4 * i.val] s.out[4 * i.val + 1] s.out[4 * i.val + 2] s.out[4 * i.val + 3]

/-- The bytes of word `i` of OUT follow its offset (20_memory.md R35, R37). -/
theorem State.readByte_outWord (s : State) (i : Fin 16) (j : Offset) (hj : j.toNat < 4) :
    s.readByte (BitVec.ofNat 8 (0x40 + 4 * i.val) + j) = s.out[4 * i.val + j.toNat] := by
  refine s.readByte_out (by omega) ?_
  rw [BitVec.toNat_add, BitVec.toNat_ofNat]
  omega

/-- The aligned word at OUT's offset 4i is word `i` of the output block (20_memory.md R37, R41). -/
theorem State.readWord_outWord (s : State) (i : Fin 16) :
    s.readWord (BitVec.ofNat 8 (0x40 + 4 * i.val)) = s.outWord i := by
  have h0 : (BitVec.ofNat 8 (0x40 + 4 * i.val)).toNat = 0x40 + 4 * i.val := by
    rw [BitVec.toNat_ofNat]
    omega
  rw [s.readWord_out (by omega) (by omega), s.readByte_out (by omega) h0,
    s.readByte_outWord i 1 (by decide), s.readByte_outWord i 2 (by decide), s.readByte_outWord i 3 (by decide)]
  rfl

/-- An aligned word read of OUT is admitted (20_memory.md R38). -/
theorem admitted_outWord (i : Fin 16) : admitted (BitVec.ofNat 8 (0x40 + 4 * i.val)) .word .read = true := by
  rw [admitted_word_read, BitVec.toNat_ofNat]
  exact decide_eq_true (by omega)

/-- Byte `j` of word `i` of a serialised block (42_round_sequencer.md R78). -/
theorem getElem_serialize (y : Vector Word 16) (i : Fin 16) (j : Nat) (hj : j < 4) :
    (serialize y)[4 * i.val + j] = byteOf y[i.val] j := by
  have hdiv : (4 * i.val + j) / 4 = i.val := by omega
  have hmod : (4 * i.val + j) % 4 = j := by omega
  simp only [serialize, Vector.getElem_ofFn, hdiv, hmod]

/-- The four bytes of a serialised word make it up again (20_memory.md R37). -/
theorem le32_serialize (y : Vector Word 16) (i : Fin 16) :
    le32 (serialize y)[4 * i.val] (serialize y)[4 * i.val + 1] (serialize y)[4 * i.val + 2]
      (serialize y)[4 * i.val + 3] = y[i.val] := by
  have h0 : (serialize y)[4 * i.val] = byteOf y[i.val] 0 := getElem_serialize y i 0 (by decide)
  rw [h0, getElem_serialize y i 1 (by decide), getElem_serialize y i 2 (by decide),
    getElem_serialize y i 3 (by decide), le32_byteOf]

/-- Settles O28: byte 4i + j comes from word (4i + j) / 4 = i, and LE32 undoes BYTE. -/
theorem serializeBytes : Obligations.SerializeBytes := by
  unfold Obligations.SerializeBytes
  exact fun y i => ⟨fun j => getElem_serialize y i j.val j.isLt, le32_serialize y i⟩

/-- Settles O55: the reads are admitted and show STATUS and OUT; a serialised word is made up again by its bytes. -/
theorem statusAndOutReads : Obligations.StatusAndOutReads := by
  unfold Obligations.StatusAndOutReads
  intro s
  have hword (i : Fin 16) : hostRead (BitVec.ofNat 8 (0x40 + 4 * i.val)) .word s =
      .next { s with response := .data32 (s.outWord i) } := by
    rw [hostRead_word s (admitted_outWord i), s.readWord_outWord]
  refine ⟨hostRead_word s (by decide), fun k => ?_, hword, fun y i hy => ?_⟩
  · have hk : (BitVec.ofNat 8 (0x40 + k.val)).toNat = 0x40 + k.val := by
      rw [BitVec.toNat_ofNat]
      omega
    have hadm : admitted (BitVec.ofNat 8 (0x40 + k.val)) .byte .read = true := by
      rw [admitted_byte_read, hk]
      exact decide_eq_true (by omega)
    rw [hostRead_byte s hadm, s.readByte_out k.isLt hk]
  · have hwordY : s.outWord i = y[i.val] := by
      unfold State.outWord
      simp only [hy, le32_serialize]
    rw [hword i, hwordY]

end Sys2Proof.Machine
end

/-! ### The effect of a staging write (20_memory.md R37, R40, R43) -/

section
namespace Sys2Proof.Machine

/-- A staging write leaves every register but staging, and the answer, as it was: its frame as a record update. -/
theorem SameButStaging.eq_update {s t : State} (h : SameButStaging s t) :
    t = { s with keystg := t.keystg, ivstg := t.ivstg, ctrstg := t.ctrstg, response := t.response } := by
  obtain ⟨ks, is, cs, r, rfl⟩ := h
  rfl

/-- Settles O57: a byte write is the store of its byte, which reads back. -/
theorem byteWriteEffect : Obligations.ByteWriteEffect := by
  unfold Obligations.ByteWriteEffect
  intro off v s h
  refine ⟨_, hostWrite_byte v s h, ?_, fun o ho => ?_, ?_⟩
  · rw [State.storedByte_answer, State.storedByte_storeByte _ _ _ _ h, if_pos rfl]
    rfl
  · rw [State.storedByte_answer, State.storedByte_storeByte _ _ _ _ h, if_neg ho]
  · exact (((SameButStaging.refl s).storeByte off (byteOf v 0)).answer .done).eq_update

/-- The byte behind KEYSTG's offset `k` is KEYSTG[k] (20_memory.md R35). -/
theorem State.keystg_of_storedByte {s : State} {off : Offset} {b : Byte} {k : Nat} (hk : k < 32) (ho : off.toNat = k)
    (h : s.storedByte off = some b) : s.keystg[k] = b := by
  unfold State.storedByte at h
  rw [(region_eq_keystg off ⟨k, hk⟩).2 ho] at h
  exact Option.some.inj h

/-- After a word write at KEYSTG's offset 4i the staged key word i is the word written (10_state.md R15). -/
theorem State.stagedKey_of_word {s : State} {off : Offset} {v : Word} {i : Nat} (hi : i < 8)
    (ho : off.toNat = 4 * i) (h : ∀ j : Fin 4, s.storedByte (off + BitVec.ofNat 8 j.val) = some (byteOf v j.val)) :
    s.stagedKey[i] = v := by
  have hbyte (j : Fin 4) : s.keystg[4 * i + j.val] = byteOf v j.val := by
    refine State.keystg_of_storedByte (by omega) ?_ (h j)
    rw [BitVec.toNat_add, BitVec.toNat_ofNat]
    omega
  have h0 : s.keystg[4 * i] = byteOf v 0 := hbyte 0
  have h1 : s.keystg[4 * i + 1] = byteOf v 1 := hbyte 1
  have h2 : s.keystg[4 * i + 2] = byteOf v 2 := hbyte 2
  have h3 : s.keystg[4 * i + 3] = byteOf v 3 := hbyte 3
  simp only [State.stagedKey, Vector.getElem_ofFn, h0, h1, h2, h3, le32_byteOf]

/-- A byte of OUT is shown as it is stored (20_memory.md R41). -/
theorem State.readByte_of_storedByte {s : State} {off : Offset} {b : Byte} (ho : 0x40 ≤ off.toNat)
    (h : s.storedByte off = some b) : s.readByte off = b := by
  unfold State.storedByte at h
  unfold State.readByte
  cases hr : region off with
  | out k => simpa [hr] using h
  | keystg k => have := (region_eq_keystg off k).1 hr; omega
  | ivstg k => have := (region_eq_ivstg off k).1 hr; omega
  | ctrstg k => have := (region_eq_ctrstg off k).1 hr; omega
  | cmd => simp [hr] at h
  | status => simp [hr] at h
  | reserved => simp [hr] at h

/-- Settles O56: a word write is the store of its four bytes, which read back; a word read of OUT is the bytes stored
there. -/
theorem wordAccessLittleEndian : Obligations.WordAccessLittleEndian := by
  unfold Obligations.WordAccessLittleEndian
  refine ⟨fun off v s h h4 => ?_, fun off s b0 b1 b2 b3 h h' h4 hb0 hb1 hb2 hb3 => ?_⟩
  · have hadd (j : Fin 4) : (off + BitVec.ofNat 8 j.val).toNat = off.toNat + j.val := by
      rw [BitVec.toNat_add, BitVec.toNat_ofNat]
      omega
    have hbytes (j : Fin 4) : (s.storeWord off v).storedByte (off + BitVec.ofNat 8 j.val) = some (byteOf v j.val) := by
      rw [State.storedByte_storeWord _ _ _ _ h h4, if_pos (by rw [hadd]; omega), hadd, Nat.add_sub_cancel_left]
    refine ⟨_, hostWrite_word v s h h4, hbytes, fun o ho => ?_, ?_, fun i hi => ?_⟩
    · rw [State.storedByte_answer, State.storedByte_storeWord _ _ _ _ h h4, if_neg (by omega)]
    · exact (((SameButStaging.refl s).storeWord off v).answer .done).eq_update
    · exact State.stagedKey_of_word i.isLt hi hbytes
  · have hadd (j : Offset) (hj : j.toNat < 4) : 0x40 ≤ (off + j).toNat := by
      rw [BitVec.toNat_add]
      omega
    have hadm : admitted off .word .read = true := by
      rw [admitted_word_read]
      exact decide_eq_true (by omega)
    rw [hostRead_word s hadm, s.readWord_out h h', State.readByte_of_storedByte h hb0,
      State.readByte_of_storedByte (hadd 1 (by decide)) hb1, State.readByte_of_storedByte (hadd 2 (by decide)) hb2,
      State.readByte_of_storedByte (hadd 3 (by decide)) hb3, le32]

end Sys2Proof.Machine
end

/-! ### The cycle that writes a command, and the cycle that reads while the block lands (20_memory.md R39, R44) -/

section
namespace Sys2Proof.Machine

/-- While CORE is idle, the cycle that writes `w` to CMD is Command(w), answered `done` (20_memory.md R43). -/
theorem step_of_cmd_idle {s u : State} {w : Word} {rest : List CycleInput}
    (hi : s.inputs = .ofAccess (.cmd s.page w) :: rest) (hb : s.busy = false) (hu : commandWrite w s = .next u)
    (henv : u.inputs = s.inputs) : step s = .next { u with inputs := rest, response := .done } := by
  rw [step_of_cmd hi hu, State.land_idle ((s.busy_eq_false).1 hb)]
  simp [State.consumeInput, henv, hi]

/-- Settles O6: Command(v) of an idle CORE is exec after the acceptance step, or the illegal-command error. -/
theorem stepRunsDecodedCommand : Obligations.StepRunsDecodedCommand := by
  unfold Obligations.StepRunsDecodedCommand
  intro s w rest hi hb
  refine ⟨fun i t hd ht => ?_, fun why hd => ?_⟩
  · have hinputs : t.inputs = s.inputs := (exec_environment ht).1
    exact step_of_cmd_idle hi hb ((commandWrite_command hb hd).trans ht) hinputs
  · exact step_of_cmd_idle hi hb (commandWrite_illegal hb hd) rfl

/-- A table word that decodes to a command is that command's word (30_encoding.md R53, R57). -/
theorem decode_of_decodeTableWord {nbits w : Nat} {i : Instr} (h : decodeTableWord nbits w = some i) :
    decode (BitVec.ofNat 32 (w % 2 ^ nbits)) = .command i := by
  unfold decodeTableWord at h
  split at h
  case isFalse => cases h
  case isTrue =>
    cases hd : decode (BitVec.ofNat 32 (w % 2 ^ nbits)) with
    | command j =>
      rw [hd] at h
      cases h
      rfl
    | illegal why =>
      rw [hd] at h
      cases h

/-- Settles O7: `withFetchWord` makes a state in which the step runs the decoded command, and no command reads the
pending inputs. -/
theorem stepRunsFetchedWord : Obligations.StepRunsFetchedWord := by
  unfold Obligations.StepRunsFetchedWord
  intro s t nbits w i hw ht
  have hexec : exec i (s.withFetchWord nbits w).accept =
      .next { t with inputs := (s.withFetchWord nbits w).inputs } := exec_withInputs ht _
  have hrun := (stepRunsDecodedCommand (s.withFetchWord nbits w) _ s.inputs rfl rfl).1 i _
    (decode_of_decodeTableWord hw) hexec
  exact hrun

/-- What the window answers an admitted word read: the word shown at the start of the cycle (20_memory.md R39). -/
theorem State.answer_rd32 {s : State} {off : Nat} (ho : off < 0x100)
    (ha : admitted (BitVec.ofNat 8 off) .word .read = true) :
    s.answer (some (.rd32 s.page off)) = .data32 (s.readWord (BitVec.ofNat 8 off)) := by
  simp [State.answer, Access.rd32, offsetOf_coreBase_add s.page off ho, ha]

/-- A FINAL cycle with an admitted word read: the FINAL step lands, and the answer is the word shown before it
(70_reset_and_hazards.md R104). -/
theorem step_of_final_rd32 {s : State} {off : Nat} {rest : List CycleInput} (hp : s.phase = .final)
    (ho : off < 0x100) (ha : admitted (BitVec.ofNat 8 off) .word .read = true)
    (hi : s.inputs = .ofAccess (.rd32 s.page off) :: rest) :
    ∃ t, step s = .next t ∧ t.response = .data32 (s.readWord (BitVec.ofNat 8 off)) ∧ SameRegisters s.finalStep t := by
  have hn : s.nextInput = .ofAccess (.rd32 s.page off) := State.nextInput_cons hi
  have hr : s.nextInput.rst = false := by rw [hn]; rfl
  have hb : s.busy = true := by simp [hp]
  obtain ⟨t, ht⟩ := exists_step s
  refine ⟨t, ht, ?_, State.sequencerStep_final hp ▸ step_of_busy hb hr ht⟩
  rw [step_response hr ht, hn]
  exact State.answer_rd32 ho ha

/-- Settles O60: the answer is what the old state shows, and the registers are the FINAL step's. -/
theorem finalCycleReadsOldState : Obligations.FinalCycleReadsOldState := by
  unfold Obligations.FinalCycleReadsOldState
  intro s rest hp
  refine ⟨fun hi => ?_, fun i hi => ?_⟩
  · obtain ⟨t, ht, hresponse, hregs⟩ := step_of_final_rd32 hp (by decide) (by decide) hi
    exact ⟨t, ht, hresponse, by simp [s.statusWord_busy, hp], s.statusWord_valid, hregs.valid,
      (t.busy_eq_false).2 hregs.phase⟩
  · obtain ⟨t, ht, hresponse, hregs⟩ := step_of_final_rd32 hp (by omega) (admitted_outWord i) hi
    exact ⟨t, ht, hresponse.trans (congrArg _ (s.readWord_outWord i)), hregs.out⟩

end Sys2Proof.Machine
end

/-! ### The command word (30_encoding.md R53, R55, R56) -/

section
namespace Sys2Proof

open CmdWord Machine

/-- INIT's row in field form (30_encoding.md R55). -/
theorem decode_of_initRow {w : Word} (ho : op w = 1) (h0 : res0 w = 0) (h1 : res1 w = 0) :
    decode w = .command (.init (klen w).toNat (vlen w).toNat) := by
  rw [decode, if_pos ho, if_pos ⟨h0, h1⟩]

/-- Settles O1: a length of at most 255 is what its 8-bit field holds; the words of NEXT and SETCTR are fixed. -/
theorem decodeOfEncode : Obligations.DecodeOfEncode := by
  unfold Obligations.DecodeOfEncode
  intro i hi
  cases i with
  | init klen vlen =>
    simp only [Instr.WellFormed, Bool.and_eq_true, decide_eq_true_eq] at hi
    obtain ⟨hk, hv⟩ := hi
    have hkfit : (BitVec.ofNat 8 klen).toNat = klen := by rw [BitVec.toNat_ofNat]; omega
    have hvfit : (BitVec.ofNat 8 vlen).toNat = vlen := by rw [BitVec.toNat_ofNat]; omega
    rw [encode, decode_of_initRow (op_ofFields ..) (res0_ofFields ..) (res1_ofFields ..), klen_ofFields, vlen_ofFields,
      hkfit, hvfit]
  | next => decide
  | setctr => decide

/-- The fields of a word that decodes to a command, by the table's rows (30_encoding.md R55). -/
theorem decode_command_fields {w : Word} {i : Instr} (h : decode w = .command i) :
    res0 w = 0 ∧ res1 w = 0 ∧
      ((op w = 1 ∧ i = .init (klen w).toNat (vlen w).toNat) ∨
        (klen w = 0 ∧ vlen w = 0 ∧ ((op w = 2 ∧ i = .next) ∨ (op w = 3 ∧ i = .setctr)))) := by
  unfold decode at h
  split_ifs at h with h1 hr h23 hr hkv h2
  · cases h
    exact ⟨hr.1, hr.2, .inl ⟨h1, rfl⟩⟩
  · cases h
    exact ⟨hr.1, hr.2, .inr ⟨hkv.1, hkv.2, .inl ⟨h2, rfl⟩⟩⟩
  · cases h
    exact ⟨hr.1, hr.2, .inr ⟨hkv.1, hkv.2, .inr ⟨h23.resolve_left h2, rfl⟩⟩⟩

/-- Settles O2: the fields the decoder has checked are the ones the encoder writes. -/
theorem encodeOfDecode : Obligations.EncodeOfDecode := by
  unfold Obligations.EncodeOfDecode
  intro w i h
  obtain ⟨h0, h1, ⟨ho, rfl⟩ | ⟨hk, hv, ⟨ho, rfl⟩ | ⟨ho, rfl⟩⟩⟩ := decode_command_fields h
  · have hklt := (klen w).isLt
    have hvlt := (vlen w).isLt
    refine ⟨by simp [Instr.WellFormed]; omega, ?_⟩
    exact ext_fields (by simp [encode, h1]) (by simp [encode]) (by simp [encode]) (by simp [encode, h0])
      (by simp [encode, ho])
  · exact ⟨rfl, ext_fields (by simp [encode, h1]) (by simp [encode, hv]) (by simp [encode, hk])
      (by simp [encode, h0]) (by simp [encode, ho])⟩
  · exact ⟨rfl, ext_fields (by simp [encode, h1]) (by simp [encode, hv]) (by simp [encode, hk])
      (by simp [encode, h0]) (by simp [encode, ho])⟩

/-- Masking a word masks its fields. -/
theorem CmdWord.and_ofFields (r1 v k r1' v' k' : Byte) (r0 o r0' o' : BitVec 4) :
    ofFields r1 v k r0 o &&& ofFields r1' v' k' r0' o' =
      ofFields (r1 &&& r1') (v &&& v') (k &&& k') (r0 &&& r0') (o &&& o') := by
  refine BitVec.eq_of_getLsbD_eq fun i hi => ?_
  simp only [BitVec.getLsbD_and, getLsbD_ofFields]
  split_ifs <;> rfl

/-- INIT's match and mask are its field form (30_encoding.md R55). -/
theorem initRow_iff (w : Word) : w &&& 0xFF0000FF = 0x00000001 ↔ op w = 1 ∧ res0 w = 0 ∧ res1 w = 0 := by
  have hmask : w &&& 0xFF0000FF = ofFields (res1 w) 0 0 (res0 w) (op w) := by
    have hallOnes : (0xFF0000FF : Word) = ofFields (BitVec.allOnes 8) 0 0 (BitVec.allOnes 4) (BitVec.allOnes 4) := by
      decide
    conv_lhs => rw [← ofFields_fields w, hallOnes]
    simp only [CmdWord.and_ofFields, BitVec.and_allOnes, BitVec.ofNat_eq_ofNat, BitVec.and_zero]
  have hmatch : (0x00000001 : Word) = ofFields 0 0 0 0 1 := by decide
  rw [hmask, hmatch]
  constructor
  · intro h
    exact ⟨by simpa using congrArg op h, by simpa using congrArg res0 h, by simpa using congrArg res1 h⟩
  · rintro ⟨ho, h0, h1⟩
    rw [ho, h0, h1]

/-- A word outside the table's rows is illegal: a command's word lies in its row (30_encoding.md R55). -/
theorem exists_illegal_of_no_row {w : Word} (hinit : w &&& 0xFF0000FF ≠ 0x00000001) (hnext : w ≠ 0x00000002)
    (hsetctr : w ≠ 0x00000003) : ∃ why, decode w = .illegal why := by
  cases hd : decode w with
  | illegal why => exact ⟨why, rfl⟩
  | command i =>
    obtain ⟨-, rfl⟩ := encodeOfDecode w i hd
    cases i with
    | init klen vlen => exact absurd (Laws.EncodingRow.init klen vlen) hinit
    | next => exact absurd rfl hnext
    | setctr => exact absurd rfl hsetctr

/-- Settles O3: INIT's row is its field form, the other two are one word each, and no word lies in two rows. -/
theorem decodeFollowsTable : Obligations.DecodeFollowsTable := by
  unfold Obligations.DecodeFollowsTable
  intro w
  refine ⟨fun h => ?_, ?_, ?_, exists_illegal_of_no_row, initRow_iff w, ?_, ?_⟩
  · obtain ⟨ho, h0, h1⟩ := (initRow_iff w).1 h
    exact decode_of_initRow ho h0 h1
  · rintro rfl
    exact decodeOfEncode .next rfl
  · rintro rfl
    exact decodeOfEncode .setctr rfl
  · rintro ⟨h, rfl | rfl⟩
    · exact absurd h (by decide)
    · exact absurd h (by decide)
  · rintro ⟨rfl, h⟩
    exact absurd h (by decide)

/-- The legal words, by their fields (30_encoding.md R56). -/
theorem exists_command_iff (w : Word) :
    (∃ i, decode w = .command i) ↔
      res0 w = 0 ∧ res1 w = 0 ∧ (op w = 1 ∨ (op w = 2 ∨ op w = 3) ∧ klen w = 0 ∧ vlen w = 0) := by
  constructor
  · rintro ⟨i, h⟩
    obtain ⟨h0, h1, ⟨ho, -⟩ | ⟨hk, hv, ⟨ho, -⟩ | ⟨ho, -⟩⟩⟩ := decode_command_fields h
    · exact ⟨h0, h1, .inl ho⟩
    · exact ⟨h0, h1, .inr ⟨.inl ho, hk, hv⟩⟩
    · exact ⟨h0, h1, .inr ⟨.inr ho, hk, hv⟩⟩
  · rintro ⟨h0, h1, ho | ⟨ho | ho, hk, hv⟩⟩
    · exact ⟨_, decode_of_initRow ho h0 h1⟩
    · exact ⟨.next, by simp [decode, ho, h0, h1, hk, hv]⟩
    · exact ⟨.setctr, by simp [decode, ho, h0, h1, hk, hv]⟩

/-- A word is illegal when it is no command's. -/
theorem exists_illegal_iff (w : Word) : (∃ why, decode w = .illegal why) ↔ ¬ ∃ i, decode w = .command i := by
  cases decode w <;> simp

/-- OP's values but 1, 2 and 3 (30_encoding.md R56). -/
theorem op_unused_iff (o : BitVec 4) : (o = 0 ∨ 4 ≤ o.toNat) ↔ ¬ (o = 1 ∨ o = 2 ∨ o = 3) := by
  revert o
  decide

/-- Settles O4: the illegal words are the complement of the legal ones, and Command(v) only raises the error. -/
theorem illegalWordEffect : Obligations.IllegalWordEffect := by
  unfold Obligations.IllegalWordEffect
  intro w
  refine ⟨?_, fun s why hd hb => commandWrite_illegal hb hd⟩
  rw [exists_illegal_iff, exists_command_iff]
  have hop := op_unused_iff (op w)
  change _ ↔ op w = 0 ∨ 4 ≤ (op w).toNat ∨ res0 w ≠ 0 ∨ res1 w ≠ 0 ∨
    ((op w = 2 ∨ op w = 3) ∧ (klen w ≠ 0 ∨ vlen w ≠ 0))
  have hne : op w = 1 → ¬ (op w = 2 ∨ op w = 3) := fun h => by rw [h]; decide
  tauto

/-- Settles O5: each legal word is the encoding of its command; each illegal one has a field out of its row. -/
theorem specWordsDecode : Obligations.SpecWordsDecode := by
  unfold Obligations.SpecWordsDecode
  exact ⟨decodeOfEncode (.init 32 8) rfl, decodeOfEncode (.init 255 255) rfl, decodeOfEncode (.init 31 8) rfl,
    decodeOfEncode (.init 32 7) rfl, decodeOfEncode (.init 0 0) rfl, decodeOfEncode .next rfl,
    decodeOfEncode .setctr rfl, ⟨.operation, rfl⟩, ⟨.reservedBits, rfl⟩, ⟨.reservedBits, rfl⟩, ⟨.operandBits, rfl⟩,
    ⟨.operandBits, rfl⟩⟩

end Sys2Proof
end

/-! ### The schedule (30_encoding.md R58, R59) -/

section
namespace Sys2Proof.Machine

/-- Settles O23: the schedule repeats every eight rows, so the first eight are all of them. -/
theorem scheduleRows : Obligations.ScheduleRows := by
  unfold Obligations.ScheduleRows
  have hrow (k j : Nat) : schedRow (8 * k + j) = schedRow j := by
    rw [← schedRow_mod, Nat.mul_add_mod, schedRow_mod]
  refine ⟨fun k => ⟨hrow k 0, hrow k 1, hrow k 2, hrow k 3, hrow k 4, hrow k 5, hrow k 6, hrow k 7⟩, fun q => ?_⟩
  omega

/-- A row names four distinct words (30_encoding.md R59). -/
theorem schedRow_indices_nodup (n : Nat) : (schedRow n).indices.Nodup := by
  have hrows : ∀ m < 8, (schedRow m).indices.Nodup := by decide
  exact schedRow_mod n ▸ hrows (n % 8) (Nat.mod_lt n (by decide))

/-- The four rows of a round name all sixteen words once each: those of a column round, and those of a diagonal round
(30_encoding.md R59). -/
theorem round_covers (r : Nat) :
    ((List.range' (4 * r) 4).flatMap fun n => (schedRow n).indices).Perm (List.finRange 16) := by
  have hrounds : ∀ b < 2,
      ([4 * b, 4 * b + 1, 4 * b + 2, 4 * b + 3].flatMap fun n => (schedRow n).indices).Perm (List.finRange 16) := by
    decide
  have hrow (j : Nat) : schedRow (4 * r + j) = schedRow (4 * (r % 2) + j) := by
    rw [← schedRow_mod, ← schedRow_mod (4 * (r % 2) + j)]
    congr 1
    omega
  have hsame : (List.range' (4 * r) 4).flatMap (fun n => (schedRow n).indices) =
      [4 * (r % 2), 4 * (r % 2) + 1, 4 * (r % 2) + 2, 4 * (r % 2) + 3].flatMap fun n => (schedRow n).indices := by
    have h0 : schedRow (4 * r) = schedRow (4 * (r % 2)) := hrow 0
    simp only [List.range', List.flatMap_cons, List.flatMap_nil, Nat.add_assoc, Nat.reduceAdd, h0, hrow]
  rw [hsame]
  exact hrounds (r % 2) (Nat.mod_lt r (by decide))

/-- Quarter-rounds on rows without a common index commute (30_encoding.md R59). -/
theorem qrX_comm {r t : QuadIndex} (h : r.indices.Disjoint t.indices) (x : Vector Word 16) :
    qrX r (qrX t x) = qrX t (qrX r x) := by
  have hrt : ∀ i ∈ r.indices, i ∉ t.indices := fun i hr ht => h hr ht
  have htr : ∀ i ∈ t.indices, i ∉ r.indices := fun i ht hr => h hr ht
  unfold qrX
  rw [QuadIndex.read_write r t _ x hrt, QuadIndex.read_write t r _ x htr, QuadIndex.write_comm r t _ _ x hrt]

/-- Two quarter-rounds of one round commute: a cover without repetition has disjoint rows. -/
theorem qrX_comm_of_round {r m n : Nat} (hm : m ∈ List.range' (4 * r) 4) (hn : n ∈ List.range' (4 * r) 4)
    (x : Vector Word 16) : qrX (schedRow n) (qrX (schedRow m) x) = qrX (schedRow m) (qrX (schedRow n) x) := by
  obtain rfl | hne := eq_or_ne n m
  · rfl
  obtain ⟨-, hdisjoint⟩ := List.nodup_flatMap.1 ((round_covers r).nodup_iff.2 (List.nodup_finRange 16))
  have hsymm : Std.Symm (Function.onFun List.Disjoint fun n => (schedRow n).indices) := ⟨fun _ _ h => h.symm⟩
  exact qrX_comm (hdisjoint.forall hn hm hne) x

/-- Settles O24: the rows of a round are disjoint, so its quarter-rounds commute. -/
theorem roundOrderIrrelevant : Obligations.RoundOrderIrrelevant := by
  unfold Obligations.RoundOrderIrrelevant
  refine ⟨schedRow_indices_nodup, round_covers, fun r l x hl => hl.foldl_eq' (fun m hm n hn y => ?_) x⟩
  exact qrX_comm_of_round (hl.mem_iff.1 hm) (hl.mem_iff.1 hn) y

end Sys2Proof.Machine
end

/-! ### Runs of staging writes and the command after them (30_encoding.md R61, 20_memory.md R37, R43) -/

section
namespace Sys2Proof.Machine

open HostProgram

/-- The word writes of consecutive words from the window offset `base` on. -/
def HostProgram.wordWrites (page base : Nat) : List Word → List Access
  | [] => []
  | w :: ws => .wr32 page base w :: wordWrites page (base + 4) ws

/-- What those writes store. -/
def State.storeWords (base : Nat) : List Word → State → State
  | [], s => s
  | w :: ws, s => (s.storeWord (BitVec.ofNat 8 base) w).storeWords (base + 4) ws

/-- The little-endian words of a byte array (20_memory.md R36). -/
def HostProgram.wordsOf {n : Nat} (b : Vector Byte (4 * n)) : List Word :=
  List.ofFn fun i : Fin n => le32 b[4 * i.val] b[4 * i.val + 1] b[4 * i.val + 2] b[4 * i.val + 3]

@[simp] theorem HostProgram.length_wordsOf {n : Nat} (b : Vector Byte (4 * n)) : (wordsOf b).length = n :=
  List.length_ofFn

/-- The first four bytes of a list of words are those of its first word. -/
theorem HostProgram.blockByte_cons_of_lt (w : Word) (ws : List Word) {k : Nat} (hk : k < 4) :
    blockByte (w :: ws) k = byteOf w k := by
  rw [blockByte, Nat.div_eq_of_lt hk, Nat.mod_eq_of_lt hk, List.getD_cons_zero]

/-- The bytes after them are those of the other words. -/
theorem HostProgram.blockByte_cons_add (w : Word) (ws : List Word) (k : Nat) :
    blockByte (w :: ws) (k + 4) = blockByte ws k := by
  simp [blockByte]

/-- Byte `k` of a list of words is a byte of word `k / 4`. -/
theorem HostProgram.blockByte_ofFn {n : Nat} (f : Fin n → Word) {k : Nat} (hk : k < 4 * n) :
    blockByte (List.ofFn f) k = byteOf (f ⟨k / 4, by omega⟩) (k % 4) := by
  have hlt : k / 4 < (List.ofFn f).length := by rw [List.length_ofFn]; omega
  rw [blockByte, List.getD_eq_getElem _ _ hlt, List.getElem_ofFn]

/-- The bytes of a byte array's words are its own. -/
theorem HostProgram.blockByte_wordsOf {n : Nat} (b : Vector Byte (4 * n)) {k : Nat} (hk : k < 4 * n) :
    blockByte (wordsOf b) k = b[k] := by
  rw [wordsOf, blockByte_ofFn _ hk]
  obtain hj | hj | hj | hj : k % 4 = 0 ∨ k % 4 = 1 ∨ k % 4 = 2 ∨ k % 4 = 3 := by omega
  all_goals
    simp only [hj, byteOf_le32_0, byteOf_le32_1, byteOf_le32_2, byteOf_le32_3]
    congr 1
    omega

/-- Staging writes are a matter of the staging registers. -/
theorem SameButStaging.storeWords {s t : State} (base : Nat) (ws : List Word) (h : SameButStaging s t) :
    SameButStaging s (t.storeWords base ws) := by
  induction ws generalizing base t with
  | nil => exact h
  | cons w ws ih => exact ih _ (h.storeWord _ w)

/-- A staging write reads neither the pending inputs nor the last answer. -/
theorem State.storeByte_environment (off : Offset) (b : Byte) (s : State) (inp : List CycleInput) (r : Response) :
    State.storeByte off b { s with inputs := inp, response := r } =
      { s.storeByte off b with inputs := inp, response := r } := by
  unfold State.storeByte
  cases region off <;> rfl

theorem State.storeWords_environment (base : Nat) (ws : List Word) (s : State) (inp : List CycleInput) (r : Response) :
    State.storeWords base ws { s with inputs := inp, response := r } =
      { s.storeWords base ws with inputs := inp, response := r } := by
  induction ws generalizing base s with
  | nil => rfl
  | cons w ws ih => simp only [State.storeWords, State.storeWord, State.storeByte_environment, ih]

@[simp] theorem State.storeWords_response (base : Nat) (ws : List Word) (s : State) :
    (s.storeWords base ws).response = s.response := by
  induction ws generalizing base s with
  | nil => rfl
  | cons w ws ih => rw [State.storeWords, ih, State.storeWord_response]

/-- Consecutive words' bytes read back at their offsets, and every other byte is left alone (20_memory.md R37). -/
theorem State.storedByte_storeWords {base : Nat} {ws : List Word} (s : State) (o : Offset) (h4 : base % 4 = 0)
    (hb : base + 4 * ws.length ≤ 0x30) :
    (s.storeWords base ws).storedByte o =
      if base ≤ o.toNat ∧ o.toNat < base + 4 * ws.length then some (blockByte ws (o.toNat - base))
      else s.storedByte o := by
  induction ws generalizing base s with
  | nil => exact (if_neg (by simp)).symm
  | cons w ws ih =>
    rw [List.length_cons] at hb ⊢
    have hbase : (BitVec.ofNat 8 base).toNat = base := by rw [BitVec.toNat_ofNat]; omega
    rw [State.storeWords, ih _ (by omega) (by omega), State.storedByte_storeWord _ _ _ _ (by omega) (by omega), hbase]
    by_cases hlater : base + 4 ≤ o.toNat ∧ o.toNat < base + 4 + 4 * ws.length
    · have hsub : o.toNat - base = o.toNat - (base + 4) + 4 := by omega
      rw [if_pos hlater, if_pos (by omega), hsub, blockByte_cons_add]
    · rw [if_neg hlater]
      by_cases hfirst : base ≤ o.toNat ∧ o.toNat < base + 4
      · rw [if_pos hfirst, if_pos (by omega), blockByte_cons_of_lt w ws (by omega)]
      · rw [if_neg hfirst, if_neg (by omega)]

/-- The same, for the words of a byte array. -/
theorem State.storedByte_storeWords_wordsOf {base n : Nat} (s : State) (b : Vector Byte (4 * n)) (o : Offset)
    (h4 : base % 4 = 0) (hb : base + 4 * n ≤ 0x30) :
    (s.storeWords base (wordsOf b)).storedByte o =
      if h : base ≤ o.toNat ∧ o.toNat < base + 4 * n then some b[o.toNat - base] else s.storedByte o := by
  rw [State.storedByte_storeWords s o h4 (by rwa [length_wordsOf]), length_wordsOf]
  split_ifs with h
  · rw [blockByte_wordsOf b (by omega)]
  · rfl

/-- The byte behind a staging offset, by the register file it falls in (20_memory.md R35). -/
theorem State.storedByte_staging {off : Offset} (s : State) (h : off.toNat < 0x30) :
    s.storedByte off =
      if hk : off.toNat < 0x20 then some s.keystg[off.toNat]
      else if hi : off.toNat < 0x28 then some s.ivstg[off.toNat - 0x20]
      else some s.ctrstg[off.toNat - 0x28] := by
  unfold State.storedByte
  rcases region_staging h with ⟨k, hr⟩ | ⟨k, hr⟩ | ⟨k, hr⟩
  · have ho := (region_eq_keystg off k).1 hr
    rw [dif_pos (by omega)]
    simp [hr, ho]
  · have ho := (region_eq_ivstg off k).1 hr
    rw [dif_neg (by omega), dif_pos (by omega)]
    simp [hr, ho]
  · have ho := (region_eq_ctrstg off k).1 hr
    rw [dif_neg (by omega), dif_neg (by omega)]
    simp [hr, ho]

/-- Two states that agree on the bytes behind the staging offsets, and on everything else, are one state. -/
theorem State.eq_of_storedByte {s t u : State} (ht : SameButStaging s t) (hu : SameButStaging s u)
    (hr : t.response = u.response) (hb : ∀ off : Offset, off.toNat < 0x30 → t.storedByte off = u.storedByte off) :
    t = u := by
  obtain ⟨ks, is, cs, r, rfl⟩ := ht
  obtain ⟨ks', is', cs', r', rfl⟩ := hu
  have hk : ks = ks' := Vector.ext fun k hk => by
    have hreg := (region_eq_keystg (BitVec.ofNat 8 k) ⟨k, hk⟩).2 (by simp; omega)
    simpa [State.storedByte, hreg] using hb (BitVec.ofNat 8 k) (by simp; omega)
  have hi : is = is' := Vector.ext fun k hk => by
    have hreg := (region_eq_ivstg (BitVec.ofNat 8 (0x20 + k)) ⟨k, hk⟩).2 (by simp; omega)
    simpa [State.storedByte, hreg] using hb (BitVec.ofNat 8 (0x20 + k)) (by simp; omega)
  have hc : cs = cs' := Vector.ext fun k hk => by
    have hreg := (region_eq_ctrstg (BitVec.ofNat 8 (0x28 + k)) ⟨k, hk⟩).2 (by simp; omega)
    simpa [State.storedByte, hreg] using hb (BitVec.ofNat 8 (0x28 + k)) (by simp; omega)
  have hanswer : r = r' := hr
  rw [hk, hi, hc, hanswer]

/-- A state is what the words of a byte array lead to if it differs from `s` in the bytes they are written to only. -/
theorem State.storeWords_wordsOf_eq {base n : Nat} {s u : State} {b : Vector Byte (4 * n)} (hu : SameButStaging s u)
    (hr : s.response = u.response) (h4 : base % 4 = 0) (hb : base + 4 * n ≤ 0x30)
    (hbytes : ∀ off : Offset, off.toNat < 0x30 → u.storedByte off =
      if h : base ≤ off.toNat ∧ off.toNat < base + 4 * n then some b[off.toNat - base] else s.storedByte off) :
    s.storeWords base (wordsOf b) = u :=
  State.eq_of_storedByte ((SameButStaging.refl s).storeWords base _) hu ((s.storeWords_response base _).trans hr)
    fun off hoff => (s.storedByte_storeWords_wordsOf b off h4 hb).trans (hbytes off hoff).symm

/-- The words of K written to KEYSTG leave it holding K. -/
theorem State.storeWords_keystg (s : State) (k : Vector Byte 32) :
    s.storeWords 0 (wordsOf (n := 8) k) = { s with keystg := k } := by
  refine State.storeWords_wordsOf_eq ⟨k, s.ivstg, s.ctrstg, s.response, rfl⟩ rfl (by decide) (by decide)
    fun off hoff => ?_
  rw [State.storedByte_staging _ hoff, State.storedByte_staging _ hoff]
  split_ifs
  any_goals omega
  all_goals rfl

/-- The words of V written to IVSTG leave it holding V. -/
theorem State.storeWords_ivstg (s : State) (v : Vector Byte 8) :
    s.storeWords 0x20 (wordsOf (n := 2) v) = { s with ivstg := v } := by
  refine State.storeWords_wordsOf_eq ⟨s.keystg, v, s.ctrstg, s.response, rfl⟩ rfl (by decide) (by decide)
    fun off hoff => ?_
  rw [State.storedByte_staging _ hoff, State.storedByte_staging _ hoff]
  split_ifs
  any_goals omega
  all_goals rfl

/-- The words of a byte array written to CTRSTG leave it holding the bytes. -/
theorem State.storeWords_ctrstg (s : State) (c : Vector Byte 8) :
    s.storeWords 0x28 (wordsOf (n := 2) c) = { s with ctrstg := c } := by
  refine State.storeWords_wordsOf_eq ⟨s.keystg, s.ivstg, c, s.response, rfl⟩ rfl (by decide) (by decide)
    fun off hoff => ?_
  rw [State.storedByte_staging _ hoff, State.storedByte_staging _ hoff]
  split_ifs
  any_goals omega
  all_goals rfl

/-- Consecutive word writes to the staging registers of an idle CORE, back to back. -/
theorem runCycles_wordWrites {s : State} {base : Nat} (ws : List Word) {rest : List CycleInput}
    (hi : s.inputs = backToBack (wordWrites s.page base ws) ++ rest) (hp : s.phase = .idle) (h4 : base % 4 = 0)
    (hb : base + 4 * ws.length ≤ 0x30) :
    ∃ r, runCycles ws.length s = .next { s.storeWords base ws with inputs := rest, response := r } := by
  induction ws generalizing s base with
  | nil => exact ⟨s.response, by rw [show rest = s.inputs from hi.symm]; rfl⟩
  | cons w ws ih =>
    rw [List.length_cons] at hb
    have hstep :=
      step_of_stagingWrite (rest := backToBack (wordWrites s.page (base + 4) ws) ++ rest) hi hp (by omega) h4
    have hpage := s.storeWord_page (BitVec.ofNat 8 base) w
    have hphase := (s.storeWord_phase (BitVec.ofNat 8 base) w).trans hp
    obtain ⟨r, hr⟩ := ih (s := { s.storeWord (BitVec.ofNat 8 base) w with
      inputs := backToBack (wordWrites s.page (base + 4) ws) ++ rest, response := .done })
      (base := base + 4) (by rw [hpage]) hphase (by omega) (by omega)
    exact ⟨r, by rw [List.length_cons, runCycles_succ _ hstep, hr, State.storeWords_environment]; rfl⟩

/-- `ldkey K` leaves KEYSTG holding K (30_encoding.md R61). -/
theorem runCycles_ldkey {s : State} {k : Vector Byte 32} {rest : List CycleInput}
    (hi : s.inputs = backToBack (ldkey s.page k) ++ rest) (hp : s.phase = .idle) :
    ∃ t r, runCycles 8 s = .next t ∧ t = { s with keystg := k, inputs := rest, response := r } := by
  obtain ⟨r, hr⟩ := runCycles_wordWrites (base := 0) (wordsOf (n := 8) k) hi hp (by decide) (by simp)
  rw [State.storeWords_keystg, length_wordsOf] at hr
  exact ⟨_, r, hr, rfl⟩

/-- `ldiv V` leaves IVSTG holding V (30_encoding.md R61). -/
theorem runCycles_ldiv {s : State} {v : Vector Byte 8} {rest : List CycleInput}
    (hi : s.inputs = backToBack (ldiv s.page v) ++ rest) (hp : s.phase = .idle) :
    ∃ t r, runCycles 2 s = .next t ∧ t = { s with ivstg := v, inputs := rest, response := r } := by
  obtain ⟨r, hr⟩ := runCycles_wordWrites (base := 0x20) (wordsOf (n := 2) v) hi hp (by decide) (by simp)
  rw [State.storeWords_ivstg, length_wordsOf] at hr
  exact ⟨_, r, hr, rfl⟩

/-- Byte `j` of the counter (20_memory.md R36). -/
def counterBytes (c : DWord) : Vector Byte 8 := Vector.ofFn fun j => c.extractLsb' (8 * j.val) 8

/-- The four bytes of a word of the counter make it up again. -/
theorem le32_extractLsb' (c : DWord) (n : Nat) :
    le32 (c.extractLsb' n 8) (c.extractLsb' (n + 8) 8) (c.extractLsb' (n + 16) 8) (c.extractLsb' (n + 24) 8) =
      c.extractLsb' n 32 := by
  refine BitVec.eq_of_getLsbD_eq fun i hi => ?_
  simp only [getLsbD_le32, BitVec.getLsbD_extractLsb']
  grind

/-- `ldctr C` leaves CTRSTG holding the bytes of C (30_encoding.md R61). -/
theorem runCycles_ldctr {s : State} {c : DWord} {rest : List CycleInput}
    (hi : s.inputs = backToBack (ldctr s.page c) ++ rest) (hp : s.phase = .idle) :
    ∃ t r, runCycles 2 s = .next t ∧ t = { s with ctrstg := counterBytes c, inputs := rest, response := r } := by
  have hwords : ldctr s.page c = wordWrites s.page 0x28 (wordsOf (n := 2) (counterBytes c)) := by
    rw [ldctr, ← le32_extractLsb' c 0, ← le32_extractLsb' c 32]
    simp [wordsOf, counterBytes, wordWrites]
  rw [hwords] at hi
  obtain ⟨r, hr⟩ := runCycles_wordWrites (wordsOf (n := 2) (counterBytes c)) hi hp (by decide) (by simp)
  rw [State.storeWords_ctrstg, length_wordsOf] at hr
  exact ⟨_, r, hr, rfl⟩

/-- The cycle in which an idle CORE is given the word of a command (20_memory.md R44). -/
theorem step_of_encoded {s t : State} {i : Instr} {rest : List CycleInput}
    (hi : s.inputs = .ofAccess (.cmd s.page (encode i)) :: rest) (hp : s.phase = .idle) (hw : i.WellFormed = true)
    (ht : exec i s.accept = .next t) : step s = .next { t with inputs := rest, response := .done } :=
  (stepRunsDecodedCommand s _ rest hi ((s.busy_eq_false).2 hp)).1 i t (decodeOfEncode i hw) ht

/-- INIT with lengths that suffice succeeds (40_commands.md R62). -/
theorem exec_init_of_le {klen vlen : Nat} (s : State) (hk : 32 ≤ klen) (hv : 8 ≤ vlen) :
    exec (.init klen vlen) s = .next s.constructInstance := by
  simp [exec, execInit, keyTooShort, ivTooShort, Nat.not_lt.2 hk, Nat.not_lt.2 hv]

/-- SETCTR in Active loads the counter (40_commands.md R64). -/
theorem exec_setctr_of_active {s : State} (hg : s.gen = .active) : exec .setctr s = .next s.loadCounter := by
  simp [exec, execSetctr, hg]

/-- A saturated length still suffices (30_encoding.md R54). -/
theorem HostProgram.le_saturate {n len : Nat} (h : n ≤ len) (hn : n ≤ 255) : n ≤ saturate len := Nat.le_min.2 ⟨h, hn⟩

/-- Settles O13: `ldkey` and `ldiv` fill the staging registers of the key and the IV, and INIT reads them. -/
theorem constructBuildsInstance : Obligations.ConstructBuildsInstance := by
  unfold Obligations.ConstructBuildsInstance
  intro s k v klen vlen rest hi hp hk hv
  have hwf : (Instr.init (saturate klen) (saturate vlen)).WellFormed = true := by
    simp [Instr.WellFormed, saturate_le]
  simp only [construct, backToBack, List.map_append, List.append_assoc, cmdInit_eq s.page hwf] at hi
  obtain ⟨t, r, hkey, ht⟩ := runCycles_ldkey hi hp
  obtain ⟨u, r', hiv, hu⟩ := runCycles_ldiv (s := t) (by rw [ht]; rfl) (by rw [ht]; exact hp)
  have hcmd := step_of_encoded (s := u) (by rw [hu, ht]; rfl) (by rw [hu, ht]; exact hp) hwf
    (exec_init_of_le _ (le_saturate hk (by decide)) (le_saturate hv (by decide)))
  rw [runCycles_add 8 3 hkey, runCycles_add 2 1 hiv, runCycles_succ 0 hcmd, hu, ht]
  rfl

/-- Settles O14: `ldctr` fills CTRSTG, whose words SETCTR reads. -/
theorem preloadLoadsCounter : Obligations.PreloadLoadsCounter := by
  unfold Obligations.PreloadLoadsCounter
  intro s c rest hi hp hg
  simp only [backToBack, List.map_append, List.append_assoc] at hi
  obtain ⟨t, r, hctr, ht⟩ := runCycles_ldctr hi hp
  have hcmd := step_of_encoded (s := t) (i := .setctr) (by rw [ht]; rfl) (by rw [ht]; exact hp) rfl
    (exec_setctr_of_active (by rw [ht]; exact hg))
  have hlo : t.accept.stagedCtrLo = c.extractLsb' 0 32 := by
    rw [ht, ← le32_extractLsb' c 0]
    simp [State.stagedCtrLo, counterBytes]
  have hhi : t.accept.stagedCtrHi = c.extractLsb' 32 32 := by
    rw [ht, ← le32_extractLsb' c 32]
    simp [State.stagedCtrHi, counterBytes]
  rw [runCycles_add 2 1 hctr, runCycles_succ 0 hcmd, State.loadCounter, hlo, hhi, ht]
  rfl

end Sys2Proof.Machine
end

/-! ### The host that waits for an answer (30_encoding.md R61) -/

section
namespace Sys2Proof.Machine

open HostProgram

/-- With no reset among the pending inputs the present cycle has none. -/
theorem State.nextInput_rst {s : State} (h : ∀ c ∈ s.inputs, c.rst = false) : s.nextInput.rst = false :=
  State.nextInput_rst_of_take (n := 0) fun c hc => h c (List.mem_of_mem_take hc)

/-- The state after a cycle without reset in which the host reads STATUS (20_memory.md R40, 70_reset_and_hazards.md
R104). -/
def State.afterStatusRead (s : State) : State :=
  { s.sequencerStep with inputs := s.inputs.tail, response := .data32 s.statusWord }

theorem HostProgram.rd32_status {s : State} (hr : ∀ c ∈ s.inputs, c.rst = false) :
    rd32 0x34 s = some (s.statusWord, s.afterStatusRead) :=
  rd32_eq (by decide) (State.nextInput_rst hr) (by decide)

/-- `poll` stops when STATUS shows BUSY = 0 (30_encoding.md R61, 10_state.md R27). -/
theorem HostProgram.pollDone_statusWord (s : State) : pollDone s.statusWord = !s.busy := by
  rw [pollDone, State.statusWord_busy]

/-- A poll of an idle CORE ends with its first read. -/
theorem HostProgram.poll_of_idle {s : State} (n : Nat) (hr : ∀ c ∈ s.inputs, c.rst = false) (hp : s.phase = .idle) :
    poll (n + 1) s = some (s.statusWord, s.afterStatusRead) := by
  have hdone : pollDone s.statusWord = true := by simp [pollDone_statusWord, hp]
  simp only [poll, rd32_status hr, hdone, if_true]

/-- A poll of a busy CORE goes on after its read. -/
theorem HostProgram.poll_of_busy {s : State} (n : Nat) (hr : ∀ c ∈ s.inputs, c.rst = false) (hb : s.busy = true) :
    poll (n + 1) s = poll n s.afterStatusRead := by
  have hnot : pollDone s.statusWord = false := by simp [pollDone_statusWord, hb]
  simp only [poll, rd32_status hr, hnot, Bool.false_eq_true, if_false]

/-- The sequencer reads neither the pending inputs nor the answer, however many steps it makes. -/
theorem State.sequencerStep_iterate_environment (m : Nat) (s : State) (inp : List CycleInput) (r : Response) :
    State.sequencerStep^[m] { s with inputs := inp, response := r } =
      { State.sequencerStep^[m] s with inputs := inp, response := r } := by
  induction m generalizing s with
  | zero => rfl
  | succ m ih =>
    have hstep : State.sequencerStep { s with inputs := inp, response := r } =
        { s.sequencerStep with inputs := inp, response := r } := by
      refine (State.sequencerStep_withHost s s.keystg s.ivstg s.ctrstg s.ovr inp r).trans ?_
      simp only [State.sequencerStep_keystg, State.sequencerStep_ivstg, State.sequencerStep_ctrstg,
        State.sequencerStep_ovr]
    rw [Function.iterate_succ_apply, Function.iterate_succ_apply, hstep, ih]

/-- The state after a poll whose last read finds the sequencer `m` steps on. -/
def State.pollEnd (m : Nat) (s : State) : State :=
  { State.sequencerStep^[m] s with
    inputs := s.inputs.drop (m + 1), response := .data32 (State.sequencerStep^[m] s).statusWord }

theorem State.pollEnd_ovr (m : Nat) (s : State) : (s.pollEnd m).ovr = (State.sequencerStep^[m] s).ovr := rfl

theorem State.pollEnd_inputs (m : Nat) (s : State) : (s.pollEnd m).inputs = s.inputs.drop (m + 1) := rfl

/-- The reads of a poll write no register of CORE. -/
theorem SameRegisters.pollEnd (m : Nat) (s : State) : SameRegisters (State.sequencerStep^[m] s) (s.pollEnd m) :=
  .environment _ _ _ _

/-- A read of STATUS brings the end of the poll one step nearer. -/
theorem State.pollEnd_afterStatusRead (m : Nat) (s : State) : s.afterStatusRead.pollEnd m = s.pollEnd (m + 1) := by
  have hiter : State.sequencerStep^[m] s.afterStatusRead = _ :=
    State.sequencerStep_iterate_environment m s.sequencerStep _ _
  rw [State.pollEnd, State.pollEnd, hiter, ← List.drop_tail (i := m + 1)]
  rfl

/-- Poll makes a read in every cycle until the sequencer is idle: if that takes `m` steps, poll ends with read `m + 1`
and answers the STATUS it saw there. -/
theorem HostProgram.poll_eq {m : Nat} {s : State} (hr : ∀ c ∈ s.inputs, c.rst = false)
    (hbusy : ∀ k < m, (State.sequencerStep^[k] s).busy = true) (hidle : (State.sequencerStep^[m] s).phase = .idle)
    (n : Nat) : poll n s = if m < n then some ((s.pollEnd m).statusWord, s.pollEnd m) else none := by
  induction m generalizing s n with
  | zero =>
    cases n with
    | zero => rfl
    | succ n =>
      have hp : s.phase = .idle := hidle
      rw [poll_of_idle n hr hp, if_pos (by omega), State.afterStatusRead, State.sequencerStep_idle hp, ← List.drop_one]
      rfl
  | succ m ih =>
    cases n with
    | zero => rfl
    | succ n =>
      have hiter (k : Nat) : State.sequencerStep^[k] s.afterStatusRead =
          { State.sequencerStep^[k + 1] s with inputs := s.inputs.tail, response := .data32 s.statusWord } :=
        State.sequencerStep_iterate_environment k s.sequencerStep _ _
      rw [poll_of_busy n hr (hbusy 0 (by omega)), ih (fun c hc => hr c (List.mem_of_mem_tail hc))
        (fun k hk => by rw [hiter]; exact hbusy (k + 1) (by omega)) (by rw [hiter]; exact hidle),
        State.pollEnd_afterStatusRead]
      simp only [Nat.add_lt_add_iff_right]

/-- A register the sequencer's step keeps is kept by any number of steps. -/
theorem State.sequencerStep_iterate_keeps {α : Type} {f : State → α} (hf : ∀ s : State, f s.sequencerStep = f s)
    (k : Nat) (s : State) : f (State.sequencerStep^[k] s) = f s := by
  induction k with
  | zero => rfl
  | succ k ih => rw [Function.iterate_succ_apply', hf, ih]

/-- ROUND steps up to q = 79 only move q on, as far as the host can see (42_round_sequencer.md R74). -/
theorem State.sequencerStep_iterate_round {s : State} (hp : s.phase = .round) {k : Nat} (hk : s.q.toNat + k ≤ 79) :
    (State.sequencerStep^[k] s).phase = .round ∧ (State.sequencerStep^[k] s).q.toNat = s.q.toNat + k ∧
      (State.sequencerStep^[k] s).counter = s.counter := by
  induction k with
  | zero => exact ⟨hp, rfl, rfl⟩
  | succ k ih =>
    obtain ⟨hphase, hq, hc⟩ := ih (by omega)
    have hlt : (State.sequencerStep^[k] s).q.toNat < 79 := by omega
    have h79 : (State.sequencerStep^[k] s).q ≠ 79 := fun h => by simp [h] at hlt
    rw [Function.iterate_succ_apply', State.sequencerStep_round hphase, State.roundStep_phase _ hphase, if_neg h79,
      State.roundStep_q_toNat hlt, State.roundStep_counter, hq, hc]
    exact ⟨rfl, by omega, rfl⟩

/-- The ROUND step that leads to FINAL (42_round_sequencer.md R74). -/
theorem State.sequencerStep_iterate_toFinal {s : State} (hp : s.phase = .round) {k : Nat} (hk : s.q.toNat + k = 80)
    (hq : s.q.toNat ≤ 79) :
    (State.sequencerStep^[k] s).phase = .final ∧ (State.sequencerStep^[k] s).counter = s.counter := by
  obtain ⟨k, rfl⟩ : ∃ j, k = j + 1 := ⟨k - 1, by omega⟩
  obtain ⟨hphase, hqk, hc⟩ := State.sequencerStep_iterate_round hp (k := k) (by omega)
  have h79 : (State.sequencerStep^[k] s).q = 79 := BitVec.eq_of_toNat_eq (hqk.trans (by simp; omega))
  rw [Function.iterate_succ_apply', State.sequencerStep_round hphase, State.roundStep_phase _ hphase, if_pos h79,
    State.roundStep_counter, hc]
  exact ⟨rfl, rfl⟩

/-- `BlockEnds s m`: the sequencer's step number `m` from `s` is the FINAL step of the block in progress. -/
structure BlockEnds (s : State) (m : Nat) : Prop where
  busy : ∀ k < m, (State.sequencerStep^[k] s).busy = true
  ended : ∃ u : State, State.sequencerStep^[m] s = u.finalStep ∧ u.counter = s.counter

/-- A block in its FINAL cycle ends with the next step (42_round_sequencer.md R77). -/
theorem blockEnds_of_final {s : State} (hp : s.phase = .final) : BlockEnds s 1 where
  busy k hk := by
    obtain rfl : k = 0 := by omega
    simp [hp]
  ended := ⟨s, State.sequencerStep_final hp, rfl⟩

/-- A block in the ROUND step q ends with the step number 81 - q from there (42_round_sequencer.md R74, R77). -/
theorem blockEnds_of_round {s : State} (hp : s.phase = .round) (hq : s.q.toNat ≤ 79) :
    BlockEnds s (81 - s.q.toNat) := by
  have hm : 81 - s.q.toNat = 80 - s.q.toNat + 1 := by omega
  obtain ⟨hfinal, hc⟩ := State.sequencerStep_iterate_toFinal hp (k := 80 - s.q.toNat) (by omega) hq
  refine ⟨fun k hk => ?_, State.sequencerStep^[80 - s.q.toNat] s, ?_, hc⟩
  · obtain hlt | heq : k < 80 - s.q.toNat ∨ k = 80 - s.q.toNat := by omega
    · obtain ⟨hround, -, -⟩ := State.sequencerStep_iterate_round hp (k := k) (by omega)
      simp [hround]
    · simp [heq, hfinal]
  · rw [hm, Function.iterate_succ_apply', State.sequencerStep_final hfinal]

/-- Settles O31: poll reads in every cycle, so it ends one read after the sequencer's last step. -/
theorem pollReadsUntilIdle : Obligations.PollReadsUntilIdle := by
  unfold Obligations.PollReadsUntilIdle
  intro s n hr
  refine ⟨fun hp hn => ?_, fun left hleft => ?_⟩
  · obtain ⟨n, rfl⟩ : ∃ k, n = k + 1 := ⟨n - 1, by omega⟩
    rw [poll_of_idle n hr hp, State.afterStatusRead, State.sequencerStep_idle hp]
  · obtain ⟨m, rfl, hends⟩ : ∃ m, left = m + 1 ∧ BlockEnds s m := by
      rcases hleft with ⟨hp, rfl⟩ | ⟨hp, hq, rfl⟩
      · exact ⟨1, rfl, blockEnds_of_final hp⟩
      · exact ⟨81 - s.q.toNat, by omega, blockEnds_of_round hp hq⟩
    obtain ⟨u, hu, hc⟩ := hends.ended
    have hpoll := poll_eq hr hends.busy (by rw [hu]; exact u.finalStep_phase) n
    refine ⟨fun hn => by rw [hpoll, if_neg (by omega)], fun hn => ⟨s.pollEnd m, by rw [hpoll, if_pos (by omega)], ?_⟩⟩
    have hkeep {α : Type} {f : State → α} (hf : ∀ s : State, f s.sequencerStep = f s) : f u.finalStep = f s :=
      hu ▸ State.sequencerStep_iterate_keeps hf m s
    have hcounter : u.finalStep.counter = s.counter + 1 := by rw [State.finalStep_counter, hc]
    rw [State.pollEnd, hu]
    exact ⟨rfl, rfl, u.finalStep.statusWord_busy, hkeep State.sequencerStep_gen, hkeep State.sequencerStep_err,
      hkeep State.sequencerStep_ovr, hkeep State.sequencerStep_key, hkeep State.sequencerStep_nonce, hcounter, rfl⟩

/-- A step of a block in progress is one quarter-round further (42_round_sequencer.md R74). -/
theorem MidBlock.sequencerStep {b u : State} {j : Nat} (h : MidBlock b j u) (hj : j < 80) :
    MidBlock b (j + 1) u.sequencerStep := by
  rcases h.progress with ⟨hp, -, -⟩ | ⟨-, h80⟩
  · rw [State.sequencerStep_round hp]
    exact h.roundStep hj
  · omega

/-- `n` sequencer steps of a loaded block are its first `n` quarter-rounds. -/
theorem MidBlock.iterate {b u : State} (h : MidBlock b 0 u) {n : Nat} (hn : n ≤ 80) :
    MidBlock b n (State.sequencerStep^[n] u) := by
  induction n with
  | zero => exact h
  | succ n ih =>
    rw [Function.iterate_succ_apply']
    exact (ih (by omega)).sequencerStep (by omega)

/-- The FINAL step of a loaded block is its step number 81 (42_round_sequencer.md R77). -/
theorem MidBlock.iterate_finalStep {b u : State} (h : MidBlock b 0 u) :
    State.sequencerStep^[81] u = (State.sequencerStep^[80] u).finalStep := by
  have hp : (State.sequencerStep^[80] u).phase = .final := by
    rcases (h.iterate (le_refl 80)).progress with ⟨-, -, hlt⟩ | ⟨hp, -⟩
    · exact absurd hlt (lt_irrefl 80)
    · exact hp
  rw [Function.iterate_succ_apply', State.sequencerStep_final hp]

/-- The FINAL step of a mixed block leaves its words in OUT (42_round_sequencer.md R77, R79). -/
theorem MidBlock.finalStep_out {b u : State} (h : MidBlock b 80 u) : u.finalStep.out = serialize (block b.S) := by
  rw [State.finalStep_out, h.x, h.S, block, Config.quarterRounds]

/-- A poll of a loaded block ends with the FINAL step of its mixed buffer done. -/
theorem MidBlock.poll {b s : State} {n : Nat} (h : MidBlock b 0 s) (hr : ∀ c ∈ s.inputs, c.rst = false) (hn : 82 ≤ n) :
    ∃ u v st, poll n s = some (st, v) ∧ MidBlock b 80 u ∧ SameRegisters u.finalStep v ∧ v.ovr = s.ovr ∧
      v.inputs = s.inputs.drop 82 := by
  have hfinal := h.iterate_finalStep
  have hpoll := poll_eq hr (m := 81) (fun k hk => (h.iterate (by omega)).busy)
    (by rw [hfinal]; exact State.finalStep_phase _) n
  rw [if_pos (by omega)] at hpoll
  refine ⟨State.sequencerStep^[80] s, s.pollEnd 81, _, hpoll, h.iterate (le_refl 80), ?_, ?_, s.pollEnd_inputs 81⟩
  · rw [← hfinal]
    exact .pollEnd 81 s
  · rw [State.pollEnd_ovr, State.sequencerStep_iterate_keeps State.sequencerStep_ovr]

/-- Word reads of an idle CORE change nothing but the answer and gather what the window shows. -/
theorem HostProgram.gather_of_idle {offs : List Nat} {s : State} (hp : s.phase = .idle)
    (hr : ∀ c ∈ s.inputs, c.rst = false)
    (ha : ∀ off ∈ offs, off < 0x100 ∧ admitted (BitVec.ofNat 8 off) .word .read = true) :
    ∃ inp r, gather offs s =
      some (offs.map fun off => s.readWord (BitVec.ofNat 8 off), { s with inputs := inp, response := r }) := by
  induction offs generalizing s with
  | nil => exact ⟨s.inputs, s.response, rfl⟩
  | cons off offs ih =>
    obtain ⟨hoff, hadm⟩ := ha off List.mem_cons_self
    have hrd := rd32_eq hoff (State.nextInput_rst hr) hadm
    rw [State.sequencerStep_idle hp] at hrd
    obtain ⟨inp, r, hg⟩ := ih (s := { s with
      inputs := s.inputs.tail, response := .data32 (s.readWord (BitVec.ofNat 8 off)) }) hp
      (fun c hc => hr c (List.mem_of_mem_tail hc)) (fun o ho => ha o (List.mem_cons_of_mem off ho))
    exact ⟨inp, r, by simp only [gather, hrd, hg]; rfl⟩

/-- `rdblock -> W` of an idle CORE: the sixteen words of OUT (30_encoding.md R61). -/
theorem HostProgram.rdblockInto_of_idle {s : State} (hp : s.phase = .idle) (hr : ∀ c ∈ s.inputs, c.rst = false) :
    ∃ inp r, rdblockInto s = some (List.ofFn s.outWord, { s with inputs := inp, response := r }) := by
  obtain ⟨inp, r, hg⟩ := gather_of_idle (offs := List.ofFn fun i : Fin 16 => 0x40 + 4 * i.val) hp hr
    (List.forall_mem_ofFn_iff.2 fun i => ⟨by omega, admitted_outWord i⟩)
  have hwords : (fun off => s.readWord (BitVec.ofNat 8 off)) ∘ (fun i : Fin 16 => 0x40 + 4 * i.val) = s.outWord :=
    funext fun i => s.readWord_outWord i
  exact ⟨inp, r, by rw [rdblockInto, hg, List.map_ofFn, hwords]⟩

/-- A word of OUT is that of the block it holds. -/
theorem State.outWord_of_serialize {s : State} {y : Vector Word 16} (h : s.out = serialize y) (i : Fin 16) :
    s.outWord i = y[i.val] := by
  unfold State.outWord
  simp only [h, le32_serialize]

/-- NEXT in Active with a counter to spend starts its block (40_commands.md R63). -/
theorem exec_next_of_active {s : State} (hg : s.gen = .active) (hc : s.counter ≠ 0xFFFFFFFFFFFFFFFF) :
    exec .next s = .next s.clearValid.startBlock := by
  have hw : ¬ s.wouldExhaust = true := fun h => hc (s.wouldExhaust_iff.1 h)
  simp only [exec, execNext, hg, if_neg hw]

/-- The host issues `cmd.next` to such a CORE while it is idle: the block is loaded. -/
theorem HostProgram.issue_cmdNext {s : State} (hr : s.nextInput.rst = false) (hp : s.phase = .idle)
    (hg : s.gen = .active) (hc : s.counter ≠ 0xFFFFFFFFFFFFFFFF) :
    ∃ t, issue (cmdNext s.page) s = .next t ∧ MidBlock s.accept.clearValid.startBlock 0 t ∧ t.ovr = false ∧
      t.inputs = s.inputs.tail := by
  have hstep := step_of_encoded (i := .next) (s := { s with inputs := .ofAccess (cmdNext s.page) :: s.inputs.tail }) rfl
    hp rfl (exec_next_of_active hg hc)
  refine ⟨_, by rw [issue, hr]; exact hstep, ?_, rfl, rfl⟩
  exact (midBlock_startBlock s.accept.clearValid).of_sameRegisters (.environment _ _ _ _)

/-- Settles O32: after `cmd.next` the poll ends with the block's FINAL step done, and `rdblock` reads it. -/
theorem nextGathersItsBlock : Obligations.NextGathersItsBlock := by
  unfold Obligations.NextGathersItsBlock
  intro s n hr hp hg hc hn
  obtain ⟨t, hissue, hload, htovr, htinputs⟩ := issue_cmdNext (State.nextInput_rst hr) hp hg hc
  obtain ⟨u, v, st, hpoll, hu, hv, hovr, hinputs⟩ :=
    hload.poll (fun c hc => hr c (List.mem_of_mem_tail (htinputs ▸ hc))) hn
  have hout : v.out = serialize (block s.S) := hv.out.trans hu.finalStep_out
  obtain ⟨inp, r, hrd⟩ := rdblockInto_of_idle hv.phase fun c hc => by
    rw [hinputs, htinputs] at hc
    exact hr c (List.mem_of_mem_tail (List.mem_of_mem_drop hc))
  have hnext : HostProgram.next n s = some (List.ofFn v.outWord, { v with inputs := inp, response := r }) := by
    simp only [HostProgram.next, hissue, hpoll, hrd]
  have hbytes (k : Fin 64) : v.out[k] = blockByte (List.ofFn v.outWord) k.val := by
    rw [blockByte_ofFn _ (by omega), State.outWord_of_serialize hout, Fin.getElem_fin]
    simp only [hout, serialize, Vector.getElem_ofFn]
  have hcounter : v.counter = s.counter + 1 := by
    rw [hv.counter, State.finalStep_counter, hu.counter]
    rfl
  exact ⟨_, _, hnext, congrArg List.ofFn (funext (State.outWord_of_serialize hout)), hbytes, hcounter, hv.valid,
    (v.busy_eq_false).2 hv.phase, (hv.gen.trans hu.gen).trans hg, hv.err.trans hu.err, hovr.trans htovr,
    hv.key.trans hu.key, hv.nonce.trans hu.nonce⟩

end Sys2Proof.Machine
end

/-! ### The commands: outcomes, frames, and a NEXT up to its block (40_commands.md R62 to R67) -/

section
namespace Sys2Proof.Machine

/-- INIT's key check comes first (40_commands.md R62). -/
theorem exec_init_of_short_key {klen : Nat} (vlen : Nat) (s : State) (hk : klen < 32) :
    exec (.init klen vlen) s = .next (s.raise .invalidKeyLength) := by
  simp [exec, execInit, keyTooShort, hk]

/-- INIT's IV check comes after it (40_commands.md R62). -/
theorem exec_init_of_short_iv {klen vlen : Nat} (s : State) (hk : 32 ≤ klen) (hv : vlen < 8) :
    exec (.init klen vlen) s = .next (s.raise .invalidIvLength) := by
  simp [exec, execInit, keyTooShort, ivTooShort, Nat.not_lt.2 hk, hv]

/-- Settles O10: the decoder's INIT row leads to INIT, whose two checks come one after the other. -/
theorem initResult : Obligations.InitResult := by
  unfold Obligations.InitResult
  refine ⟨fun w s hb hw => ?_, fun klen vlen s => ⟨exec_init_of_short_key vlen s, exec_init_of_short_iv s, ?_⟩⟩
  · exact commandWrite_command hb ((decodeFollowsTable w).1 hw)
  · intro hk hv
    have hout : Vector.replicate 64 (0 : Byte) = Vector.ofFn fun _ => 0 := rfl
    rw [exec_init_of_le s hk hv, State.constructInstance, hout]
    rfl

/-- NEXT before the first INIT (40_commands.md R63). -/
theorem exec_next_of_uninit {s : State} (hg : s.gen = .uninit) :
    exec .next s = .next (s.clearValid.raise .notActive) := by
  simp only [exec, execNext, hg]

/-- NEXT after the last block (40_commands.md R63). -/
theorem exec_next_of_exhausted {s : State} (hg : s.gen = .exhausted) :
    exec .next s = .next (s.clearValid.raise .outputExhausted) := by
  simp only [exec, execNext, hg]

/-- NEXT at the last counter ends in Exhausted (43_counter.md R84). -/
theorem exec_next_of_last {s : State} (hg : s.gen = .active) (hc : s.counter = 0xFFFFFFFFFFFFFFFF) :
    exec .next s = .next (s.clearValid.exhaust.raise .outputExhausted) := by
  simp only [exec, execNext, hg, if_pos (s.wouldExhaust_iff.2 hc)]

/-- Settles O11: one lemma per outcome, by STATE and by whether C is the last counter. -/
theorem nextResult : Obligations.NextResult := by
  unfold Obligations.NextResult
  exact ⟨fun s hb => commandWrite_command hb (decodeOfEncode .next rfl),
    fun s => ⟨exec_next_of_uninit, exec_next_of_exhausted, exec_next_of_last, exec_next_of_active⟩⟩

/-- SETCTR outside Active only fails (40_commands.md R64). -/
theorem exec_setctr_of_not_active {s : State} (hg : s.gen ≠ .active) :
    exec .setctr s = .next (s.raise .notActive) := by
  simp only [exec, execSetctr, if_neg hg]

/-- Settles O12: one lemma per outcome, by STATE. -/
theorem setctrResult : Obligations.SetctrResult := by
  unfold Obligations.SetctrResult
  exact ⟨fun s hb => commandWrite_command hb (decodeOfEncode .setctr rfl),
    fun s => ⟨exec_setctr_of_not_active, exec_setctr_of_active⟩⟩

/-- Settles O15: the host's side of the cycle only sets OVR, and the sequencer's step lands beside it. -/
theorem busyCommandDiscarded : Obligations.BusyCommandDiscarded := by
  unfold Obligations.BusyCommandDiscarded
  intro s w hb
  have hdiscard : commandWrite w s = .next s.discard := commandWrite_busy w s hb
  refine ⟨hdiscard, fun rest hi => ?_⟩
  rw [step_of_cmd hi hdiscard, State.land_busy ((s.busy_eq_true).1 hb)]
  simp [State.consumeInput, State.discard, hi]

/-- A command writes no stored byte but those of OUT (10_state.md R21, R23). -/
theorem exec_storedByte {i : Instr} {s t : State} (h : exec i s = .next t) {off : Offset}
    (ho : 0x40 ≤ off.toNat → t.out = s.out) : t.storedByte off = s.storedByte off := by
  obtain ⟨hkey, hiv, hctr, -⟩ := exec_keeps_staging h
  unfold State.storedByte
  cases hr : region off with
  | keystg k => simp only [hkey]
  | ivstg k => simp only [hiv]
  | ctrstg k => simp only [hctr]
  | out k =>
    have hoff := (region_eq_out off k).1 hr
    simp only [ho (by omega)]
  | cmd => rfl
  | status => rfl
  | reserved => rfl

/-- A byte of OUT is 0 when all of them are. -/
theorem State.storedByte_of_zeroed_out {s : State} {off : Offset} (ho : s.out = Vector.replicate 64 0)
    (h : 0x40 ≤ off.toNat) (h' : off.toNat < 0x80) : s.storedByte off = some 0 := by
  obtain ⟨k, hk⟩ := exists_region_out h h'
  simp [State.storedByte, hk, ho]

/-- The constant words are no registers, so two states show the same ones (10_state.md R14). -/
theorem State.S_constant (s t : State) (k : Fin 4) : t.S[k.val] = s.S[k.val] := by
  obtain ⟨-, -, -, -, hs⟩ := constantsHardwired s
  obtain ⟨-, -, -, -, ht⟩ := constantsHardwired t
  exact (ht k).trans (hs k).symm

/-- INIT leaves X and the sequencer; it leaves OUT too unless it succeeds and clears it (40_commands.md R62). -/
theorem exec_init_frame {klen vlen : Nat} {s t : State} (h : exec (.init klen vlen) s = .next t) :
    t.x = s.x ∧ t.phase = s.phase ∧ t.q = s.q ∧ (t.out = s.out ∨ t.out = Vector.replicate 64 0) := by
  rcases execInit_cases h with ⟨-, rfl⟩ | ⟨-, -, rfl⟩ | ⟨-, -, rfl⟩
  · exact ⟨rfl, rfl, rfl, .inl rfl⟩
  · exact ⟨rfl, rfl, rfl, .inl rfl⟩
  · exact ⟨rfl, rfl, rfl, .inr rfl⟩

/-- NEXT leaves the key, the nonce and OUT in its acceptance cycle (40_commands.md R63). -/
theorem exec_next_frame {s t : State} (h : exec .next s = .next t) :
    t.key = s.key ∧ t.nonce = s.nonce ∧ t.out = s.out := by
  rcases execNext_cases h with ⟨-, rfl⟩ | ⟨-, rfl⟩ | ⟨-, -, rfl⟩ | ⟨-, -, rfl⟩ <;> exact ⟨rfl, rfl, rfl⟩

/-- SETCTR leaves everything but the counter and ERR (40_commands.md R64). -/
theorem exec_setctr_frame {s t : State} (h : exec .setctr s = .next t) :
    t = { s with ctrLo := t.ctrLo, ctrHi := t.ctrHi, err := t.err } := by
  rcases execSetctr_cases h with ⟨-, rfl⟩ | ⟨-, rfl⟩ <;> rfl

/-- Settles O16: each command's frame says what becomes of OUT, and no command writes another stored byte. -/
theorem commandFrames : Obligations.CommandFrames := by
  unfold Obligations.CommandFrames
  intro i s t h
  obtain ⟨-, -, -, hovr⟩ := exec_keeps_staging h
  refine ⟨fun off hoff => exec_storedByte h (by omega), State.S_constant s t, hovr, ?_, ?_, ?_⟩
  · rintro ⟨klen, vlen, rfl⟩
    obtain ⟨hx, hphase, hq, hout⟩ := exec_init_frame h
    exact ⟨hx, hphase, hq, hout.imp (fun hkept off => exec_storedByte h fun _ => hkept)
      fun hzero off => State.storedByte_of_zeroed_out hzero⟩
  · rintro rfl
    obtain ⟨hkey, hnonce, hout⟩ := exec_next_frame h
    exact ⟨hkey, hnonce, fun off => exec_storedByte h fun _ => hout⟩
  · rintro rfl
    have ht := exec_setctr_frame h
    have hbytes (off : Offset) : t.storedByte off = s.storedByte off := exec_storedByte h fun _ => by rw [ht]
    rw [ht] at hbytes ⊢
    exact ⟨rfl, rfl, rfl, rfl, rfl, rfl, rfl, hbytes⟩

/-- A run of `n` cycles consumes `n` inputs and leaves CORE_BASE alone. -/
theorem runCycles_environment {n : Nat} {s t : State} (h : runCycles n s = .next t) :
    t.inputs = s.inputs.drop n ∧ t.page = s.page := by
  induction n generalizing s with
  | zero =>
    cases h
    exact ⟨rfl, rfl⟩
  | succ n ih =>
    obtain ⟨u, hu⟩ := exists_step s
    obtain ⟨hinputs, hpage⟩ := step_environment hu
    obtain ⟨hinputs', hpage'⟩ := ih ((runCycles_succ n hu).symm.trans h)
    exact ⟨by rw [hinputs', hinputs, List.drop_tail], hpage'.trans hpage⟩

/-- 81 cycles without reset run a loaded block to its end: 80 quarter-rounds and the FINAL step
(42_round_sequencer.md R76, 70_reset_and_hazards.md R110). -/
theorem MidBlock.runCycles_final {b u : State} (h : MidBlock b 0 u) (hr : ∀ c ∈ u.inputs.take 81, c.rst = false) :
    ∃ v t, Machine.runCycles 81 u = .next t ∧ MidBlock b 80 v ∧ SameRegisters v.finalStep t := by
  obtain ⟨v, hv, hmixed⟩ := h.runCycles 80 (le_refl 80) fun c hc =>
    hr c (List.take_subset_take_left u.inputs (by decide) hc)
  have hfinal : v.phase = .final := by
    rcases hmixed.progress with ⟨-, -, hlt⟩ | ⟨hp, -⟩
    · exact absurd hlt (lt_irrefl 80)
    · exact hp
  have hrst : v.nextInput.rst = false := State.nextInput_rst_of_take (n := 0) fun c hc => by
    rw [(runCycles_environment hv).1, List.take_drop] at hc
    exact hr c (List.mem_of_mem_drop hc)
  obtain ⟨t, ht⟩ := exists_step v
  have hregs := step_of_busy hmixed.busy hrst ht
  rw [State.sequencerStep_final hfinal] at hregs
  exact ⟨v, t, by rw [runCycles_add 80 1 hv, runCycles_succ 0 ht]; rfl, hmixed, hregs⟩

/-- Settles O29: the NEXT loads the block, and the 81 cycles after it end with the FINAL step of its mixed buffer. -/
theorem nextRunsToItsBlock : Obligations.NextRunsToItsBlock := by
  unfold Obligations.NextRunsToItsBlock
  intro s during rest hi hlen hduring hp hg hc
  obtain ⟨t, ht⟩ := exists_step s
  have hload := (midBlock_startBlock s.accept.clearValid).of_sameRegisters
    (step_of_startsBlock (State.startsBlock_of_cmd hi hp hg hc) ht)
  have htinputs : t.inputs = during ++ rest := by rw [(step_environment ht).1, hi, List.tail_cons]
  have hrst : ∀ c ∈ t.inputs.take 81, c.rst = false := by rwa [htinputs, List.take_left' hlen]
  obtain ⟨v, u, hu, hmixed, hregs⟩ := hload.runCycles_final hrst
  have hrun : runCycles 82 s = .next u := (runCycles_succ 81 ht).trans hu
  have hout : u.out = serialize (block s.S) := hregs.out.trans hmixed.finalStep_out
  have hcounter : u.counter = s.counter + 1 := by
    rw [hregs.counter, State.finalStep_counter, hmixed.counter]
    rfl
  have hinputs : u.inputs = rest := by
    rw [(runCycles_environment hu).1, htinputs, List.drop_left' hlen]
  exact ⟨u, hrun, hout, hout, hcounter, hregs.valid, (u.busy_eq_false).2 hregs.phase,
    (hregs.gen.trans hmixed.gen).trans hg, hregs.err.trans hmixed.err, hregs.key.trans hmixed.key,
    hregs.nonce.trans hmixed.nonce, (runCycles_environment hrun).2, hinputs⟩

end Sys2Proof.Machine
end

/-! ### The quarter-round ALU (41_quarter_round.md R68 to R73) -/

section
namespace Sys2Proof.Machine

/-- Settles O18: ADD32 and XOR32 are the bit vector's own addition and exclusive-or. -/
theorem addWrapsXorIsBitwise : Obligations.AddWrapsXorIsBitwise := by
  unfold Obligations.AddWrapsXorIsBitwise
  exact ⟨BitVec.toNat_add, by decide, by decide, fun _ _ _ => BitVec.getLsbD_xor,
    fun _ => ⟨BitVec.xor_self, BitVec.xor_zero⟩⟩

/-- A line pair of R71 in the bit vector's own operations. -/
theorem addXorRotl_eq_rotateLeft (p q r : Word) (n : Nat) (hn : n < 32) :
    addXorRotl p q r n = (p + q, (r ^^^ (p + q)).rotateLeft n) := by
  rw [addXorRotl, rotl32_eq_rotateLeft _ n hn, xor32, add32]

/-- Settles O20: each of the four line pairs is an addition, an exclusive-or and a rotation. -/
theorem quarterRoundSteps : Obligations.QuarterRoundSteps := by
  unfold Obligations.QuarterRoundSteps
  refine ⟨fun a b c d => ?_, by decide, by decide, by decide⟩
  simp only [qr, addXorRotl_eq_rotateLeft _ _ _ 16 (by decide), addXorRotl_eq_rotateLeft _ _ _ 12 (by decide),
    addXorRotl_eq_rotateLeft _ _ _ 8 (by decide), addXorRotl_eq_rotateLeft _ _ _ 7 (by decide)]

/-! ### Undoing a quarter-round (41_quarter_round.md R73) -/

/-- Rotating by the rest of the word width undoes a rotation: each bit has gone round once. -/
theorem rotl32_rotl32_sub (v : Word) (n : Nat) (h1 : 1 ≤ n) (hn : n ≤ 31) : rotl32 (rotl32 v n) (32 - n) = v := by
  refine BitVec.eq_of_getLsbD_eq fun i hi => ?_
  have hround : ((i + n) % 32 + (32 - n)) % 32 = i := by omega
  calc (rotl32 (rotl32 v n) (32 - n)).getLsbD i
      = (rotl32 (rotl32 v n) (32 - n)).getLsbD (((i + n) % 32 + (32 - n)) % 32) := by rw [hround]
    _ = (rotl32 v n).getLsbD ((i + n) % 32) :=
      rotationMovesBits _ (32 - n) _ (by omega) (by omega) (Nat.mod_lt _ (by decide))
    _ = v.getLsbD i := rotationMovesBits v n i h1 hn hi

/-- The rotations in the other order. -/
theorem rotl32_sub_rotl32 (v : Word) (n : Nat) (h1 : 1 ≤ n) (hn : n ≤ 31) : rotl32 (rotl32 v (32 - n)) n = v := by
  have h := rotl32_rotl32_sub v (32 - n) (by omega) (by omega)
  rwa [Nat.sub_sub_self (by omega)] at h

/-- A line pair of R71 undone: rotate right and exclusive-or, then subtract (41_quarter_round.md R73). -/
def undoAddXorRotl (p q r : Word) (n : Nat) : Word × Word := (p - q, xor32 (rotl32 r (32 - n)) p)

/-- Undoing a line pair after it. -/
theorem undoAddXorRotl_addXorRotl (p q r : Word) (n : Nat) (h1 : 1 ≤ n) (hn : n ≤ 31) :
    undoAddXorRotl (addXorRotl p q r n).1 q (addXorRotl p q r n).2 n = (p, r) := by
  simp only [undoAddXorRotl, addXorRotl, rotl32_rotl32_sub _ n h1 hn, add32, xor32, BitVec.add_sub_cancel,
    BitVec.xor_assoc, BitVec.xor_self, BitVec.xor_zero]

/-- A line pair after undoing it. -/
theorem addXorRotl_undoAddXorRotl (p q r : Word) (n : Nat) (h1 : 1 ≤ n) (hn : n ≤ 31) :
    addXorRotl (undoAddXorRotl p q r n).1 q (undoAddXorRotl p q r n).2 n = (p, r) := by
  simp only [undoAddXorRotl, addXorRotl, add32, xor32, BitVec.sub_add_cancel, BitVec.xor_assoc, BitVec.xor_self,
    BitVec.xor_zero, rotl32_sub_rotl32 _ n h1 hn]

/-- The inverse of QR: its four line pairs undone, the last one first. -/
def qrInverse (w : QuadWords) : QuadWords :=
  let cb := undoAddXorRotl w.c w.d w.b 7
  let ad := undoAddXorRotl w.a cb.2 w.d 8
  let cb' := undoAddXorRotl cb.1 ad.2 cb.2 12
  let ad' := undoAddXorRotl ad.1 cb'.2 ad.2 16
  ⟨ad'.1, cb'.2, cb'.1, ad'.2⟩

/-- QR loses nothing. -/
theorem qrInverse_leftInverse : Function.LeftInverse qrInverse qr := fun w => by
  simp only [qr, qrInverse, undoAddXorRotl_addXorRotl, Nat.one_le_ofNat, Nat.reduceLeDiff]

/-- Every tuple is the QR of its `qrInverse`. -/
theorem qrInverse_rightInverse : Function.RightInverse qrInverse qr := fun w => by
  simp only [qr, qrInverse, addXorRotl_undoAddXorRotl, Nat.one_le_ofNat, Nat.reduceLeDiff]

/-- Settles O22: each line pair can be undone, given the words it only reads. -/
theorem quarterRoundBijective : Obligations.QuarterRoundBijective := by
  unfold Obligations.QuarterRoundBijective
  exact ⟨qrInverse_leftInverse.injective, qrInverse_rightInverse.surjective⟩

/-! ### The quarter-round on the working buffer (41_quarter_round.md R72) -/

/-- A word of the buffer after an in-place line pair: its two targets take the words of R71, the others stay. -/
theorem getElem_inPlaceLine {p r : Fin 16} (q : Fin 16) (hpr : p ≠ r) (n : Nat) (x : Vector Word 16) (k : Fin 16) :
    (inPlaceLine p q r n x)[k] =
      if k = r then (addXorRotl x[p] x[q] x[r] n).2 else if k = p then (addXorRotl x[p] x[q] x[r] n).1 else x[k] := by
  have hne : p.val ≠ r.val := Fin.val_ne_of_ne hpr
  simp only [inPlaceLine, addXorRotl, Fin.getElem_fin, Vector.getElem_set, Vector.getElem_set_ne _ _ hne,
    if_true, Fin.ext_iff, @eq_comm _ k.val]

/-- Two buffers that agree on a row's words and on all others are equal. -/
theorem QuadIndex.buffer_ext (r : QuadIndex) {x y : Vector Word 16} (hread : r.read x = r.read y)
    (hother : ∀ k : Fin 16, k ∉ r.indices → x[k] = y[k]) : x = y := by
  simp only [QuadIndex.read, QuadWords.mk.injEq] at hread
  obtain ⟨ha, hb, hc, hd⟩ := hread
  refine Vector.ext fun k hk => ?_
  by_cases hmem : (⟨k, hk⟩ : Fin 16) ∈ r.indices
  · simp only [QuadIndex.indices, List.mem_cons, List.not_mem_nil, or_false, Fin.ext_iff] at hmem
    rcases hmem with rfl | rfl | rfl | rfl <;> assumption
  · exact hother ⟨k, hk⟩ hmem

/-- A word lies outside a row when it is none of the four. -/
theorem QuadIndex.notMem_indices {r : QuadIndex} {k : Fin 16} :
    k ∉ r.indices ↔ k ≠ r.a ∧ k ≠ r.b ∧ k ≠ r.c ∧ k ≠ r.d := by
  simp [QuadIndex.indices]

/-- Distinctness of a row's indices, pair by pair. -/
theorem QuadIndex.indices_nodup (r : QuadIndex) :
    r.indices.Nodup ↔ (r.a ≠ r.b ∧ r.a ≠ r.c ∧ r.a ≠ r.d) ∧ (r.b ≠ r.c ∧ r.b ≠ r.d) ∧ r.c ≠ r.d := by
  simp [QuadIndex.indices]

/-- Reading a row of distinct words gives what was written there. -/
theorem QuadIndex.read_write_self {r : QuadIndex} (h : r.indices.Nodup) (w : QuadWords) (x : Vector Word 16) :
    r.read (r.write w x) = w := by
  obtain ⟨⟨hab, hac, had⟩, ⟨hbc, hbd⟩, hcd⟩ := r.indices_nodup.1 h
  simp [QuadIndex.read, QuadIndex.getElem_write, ← Fin.ext_iff, hab.symm, hac.symm, had.symm, hbc.symm, hbd.symm,
    hcd.symm]

/-- A write to a row leaves the words outside it. -/
theorem QuadIndex.getElem_write_of_notMem {r : QuadIndex} {k : Fin 16} (h : k ∉ r.indices) (w : QuadWords)
    (x : Vector Word 16) : (r.write w x)[k] = x[k] := by
  obtain ⟨ha, hb, hc, hd⟩ := QuadIndex.notMem_indices.1 h
  simp [QuadIndex.getElem_write, ← Fin.ext_iff, Ne.symm ha, Ne.symm hb, Ne.symm hc, Ne.symm hd]

/-- The in-place lines leave the quarter-round of a row's words there. -/
theorem read_qrInPlace {r : QuadIndex} (h : r.indices.Nodup) (x : Vector Word 16) :
    r.read (qrInPlace r x) = qr (r.read x) := by
  obtain ⟨⟨hab, hac, had⟩, ⟨hbc, hbd⟩, hcd⟩ := r.indices_nodup.1 h
  simp only [qrInPlace, QuadIndex.read, qr, getElem_inPlaceLine r.b had, getElem_inPlaceLine r.d hbc.symm, if_true,
    hab, hab.symm, hac, hac.symm, had, had.symm, hbc, hbc.symm, hbd, hbd.symm, hcd, hcd.symm, if_false]

/-- The in-place lines leave the words outside the row. -/
theorem getElem_qrInPlace_of_notMem {r : QuadIndex} (hr : r.indices.Nodup) {k : Fin 16} (h : k ∉ r.indices)
    (x : Vector Word 16) : (qrInPlace r x)[k] = x[k] := by
  obtain ⟨⟨-, -, had⟩, ⟨hbc, -⟩, -⟩ := r.indices_nodup.1 hr
  obtain ⟨ha, hb, hc, hd⟩ := QuadIndex.notMem_indices.1 h
  simp only [qrInPlace, getElem_inPlaceLine r.b had, getElem_inPlaceLine r.d hbc.symm, ha, hb, hc, hd, if_false]

/-- On a row of distinct words QR_X is the source's in-place sequence. -/
theorem qrX_eq_qrInPlace {r : QuadIndex} (h : r.indices.Nodup) (x : Vector Word 16) : qrX r x = qrInPlace r x :=
  r.buffer_ext ((QuadIndex.read_write_self h _ x).trans (read_qrInPlace h x).symm) fun _ hk =>
    (QuadIndex.getElem_write_of_notMem hk _ x).trans (getElem_qrInPlace_of_notMem h hk x).symm

/-- Settles O21: the rows of the schedule have distinct words, so the rules of reading and writing a row apply. -/
theorem quarterRoundOnBuffer : Obligations.QuarterRoundOnBuffer := by
  unfold Obligations.QuarterRoundOnBuffer
  refine ⟨fun n x => ?_, by decide⟩
  have hrow := schedRow_indices_nodup n
  refine ⟨hrow, QuadIndex.read_write_self hrow _ x, fun k ha hb hc hd => ?_, qrX_eq_qrInPlace hrow x⟩
  exact QuadIndex.getElem_write_of_notMem (QuadIndex.notMem_indices.2 ⟨ha, hb, hc, hd⟩) _ x

end Sys2Proof.Machine
end

/-! ### The round sequencer's steps and double rounds (42_round_sequencer.md R74 to R79) -/

section
namespace Sys2Proof.Machine

/-- Eight quarter-rounds after a whole number of double rounds are one more double round (42_round_sequencer.md R75). -/
theorem quarterRoundsFrom_add_eight (x : Vector Word 16) (k : Nat) :
    quarterRoundsFrom x (8 * k + 8) = doubleRound (quarterRoundsFrom x (8 * k)) := by
  obtain ⟨h0, h1, h2, h3, h4, h5, h6, h7⟩ := scheduleRows.1 k
  simp only [quarterRoundsFrom, h0, h1, h2, h3, h4, h5, h6, h7, doubleRound]

/-- The double rounds of the schedule (42_round_sequencer.md R75). -/
theorem quarterRoundsFrom_eight_mul (x : Vector Word 16) (k : Nat) :
    quarterRoundsFrom x (8 * k) = doubleRound^[k] x := by
  induction k with
  | zero => rfl
  | succ k ih => rw [Nat.mul_succ, quarterRoundsFrom_add_eight, ih, Function.iterate_succ_apply']

/-- The feed-forward adds word by word (42_round_sequencer.md R77). -/
theorem getElem_feedForward (x y : Vector Word 16) (i : Fin 16) : (feedForward x y)[i.val] = x[i.val] + y[i.val] := by
  simp [feedForward, add32]

/-- Settles O25: eight rows of the schedule are a double round, and the 80 quarter-rounds of a block are ten of them. -/
theorem tenDoubleRounds : Obligations.TenDoubleRounds := by
  unfold Obligations.TenDoubleRounds
  refine ⟨quarterRoundsFrom_eight_mul, fun s i => ?_⟩
  have hmixed : quarterRoundsFrom s Config.quarterRounds = doubleRound^[10] s := quarterRoundsFrom_eight_mul s 10
  rw [block, hmixed]
  exact getElem_feedForward _ s i

/-- A cycle in which the outside world does nothing is the sequencer's step (42_round_sequencer.md R80). -/
theorem step_of_noAccess {s : State} (hn : s.nextInput = ⟨false, none⟩) :
    step s = .next { s.sequencerStep with response := .none, inputs := s.inputs.tail } :=
  step_of_answer (by rw [hn]) (by rw [hn]; rfl)

/-- A ROUND step writes X, PHASE and q, and may draw a free value for q (42_round_sequencer.md R74). -/
theorem State.roundStep_frame (s : State) :
    s.roundStep =
      { s with x := s.roundStep.x, phase := s.roundStep.phase, q := s.roundStep.q, draws := s.roundStep.draws } := by
  by_cases hq : s.q = 79
  · rw [State.roundStep_last hq]
  · rw [State.roundStep_notLast hq]

/-- Settles O26: the cycle is the ROUND step, whose two cases are q = 79 and q below. -/
theorem roundStepEffect : Obligations.RoundStepEffect := by
  unfold Obligations.RoundStepEffect
  intro s hp _ hn
  have hphase := s.roundStep_phase hp
  refine ⟨_, step_of_noAccess hn, ?_⟩
  rw [State.sequencerStep_round hp]
  refine ⟨?_, fun hlt => ⟨?_, State.roundStep_q_toNat hlt⟩, fun h79 => ?_, ?_, ?_⟩
  · rw [schedRow_mod]
    exact s.roundStep_x
  · exact hphase.trans (if_neg fun hq => by simp [hq] at hlt)
  · exact hphase.trans (if_pos (BitVec.eq_of_toNat_eq h79))
  · rw [State.busy_eq_true, hphase]
    split <;> simp
  · conv_lhs => rw [s.roundStep_frame]

/-- Settles O27: the cycle is the FINAL step, which serialises the feed-forward and counts up. -/
theorem finalStepEffect : Obligations.FinalStepEffect := by
  unfold Obligations.FinalStepEffect
  intro s hp hn
  refine ⟨_, step_of_noAccess hn, ?_⟩
  rw [State.sequencerStep_final hp]
  refine ⟨fun i j => ?_, s.finalStep_counter, rfl, rfl, rfl⟩
  have hbyte := getElem_serialize (feedForward s.x s.S) i j.val j.isLt
  rw [getElem_feedForward] at hbyte
  exact hbyte

end Sys2Proof.Machine
end

/-! ### The block counter (43_counter.md R82 to R85) -/

section
namespace Sys2Proof.Machine

/-- A word wraps to 0 exactly from all ones (41_quarter_round.md R68). -/
theorem word_add_one_eq_zero_iff (w : Word) : w + 1 = 0 ↔ w = 0xFFFFFFFF := add_eq_zero_iff_eq_neg

/-- Below 2^64 - 1 the next counter is one greater as a number (43_counter.md R83). -/
theorem toNat_counter_add_one {c : DWord} (h : c ≠ 0xFFFFFFFFFFFFFFFF) : (c + 1).toNat = c.toNat + 1 := by
  bv_omega

/-- Settles O34: the increment carries exactly when the low word wraps, which is from all ones. -/
theorem counterIncrementCarries : Obligations.CounterIncrementCarries := by
  unfold Obligations.CounterIncrementCarries
  intro s
  refine ⟨s.counterIncrement_ctrLo, fun hlo => ?_, fun hlo => ?_, s.counterIncrement_counter, rfl⟩
  · have hwrap : s.ctrLo + 1 = 0 := (word_add_one_eq_zero_iff _).2 hlo
    exact ⟨hwrap, if_pos hwrap⟩
  · exact if_neg (mt (word_add_one_eq_zero_iff _).1 hlo)

/-- Settles O35: both words become zero exactly when the low word wraps and its carry makes the high word wrap. -/
theorem wouldExhaustIsLastCounter : Obligations.WouldExhaustIsLastCounter := by
  unfold Obligations.WouldExhaustIsLastCounter
  refine fun s => ⟨s.wouldExhaust_iff, ?_⟩
  calc s.wouldExhaust = true
    _ ↔ s.ctrLo = 0xFFFFFFFF ∧ s.ctrHi = 0xFFFFFFFF := decide_eq_true_iff
    _ ↔ s.ctrLo + 1 = 0 ∧ s.ctrHi + 1 = 0 := by simp only [word_add_one_eq_zero_iff]
    _ ↔ s.counterIncrement.ctrLo = 0 ∧ s.counterIncrement.ctrHi = 0 :=
      and_congr_right fun hwrap => by rw [State.counterIncrement_ctrHi, if_pos hwrap]

/-- Settles O36: a block runs only below the last counter, and its FINAL step adds one. -/
theorem finalDoesNotWrap : Obligations.FinalDoesNotWrap := by
  unfold Obligations.FinalDoesNotWrap
  intro s hi hp hr
  have hb : s.busy = true := by simp [hp]
  obtain ⟨-, hc, -, -⟩ := hi.running hb
  obtain ⟨t, ht⟩ := exists_step s
  have hregs := step_of_busy hb hr ht
  rw [State.sequencerStep_final hp] at hregs
  have hnext : t.counter.toNat = s.counter.toNat + 1 := by
    rw [hregs.counter, State.finalStep_counter, toNat_counter_add_one hc]
  have hlt := t.counter.isLt
  exact ⟨by omega, t, ht, hnext⟩

/-- The block that a NEXT produces is the keystream block for the present counter
(42_round_sequencer.md R79). -/
theorem State.keystreamBlock_counter (s : State) : s.keystreamBlock s.counter = serialize (block s.S) := by
  have hS : (s.withCounter s.counter).S = s.S :=
    State.S_congr (s.withCounter_key _) (s.withCounter_counter _) (s.withCounter_nonce _)
  rw [State.keystreamBlock, hS]

/-- Settles O33, by induction on the number of NEXTs: the last one starts where the others ended, at C + n, and OUT is
its block. -/
theorem counterSequence : Obligations.CounterSequence := by
  unfold Obligations.CounterSequence
  intro n s rest hi hp hg hlast
  induction n generalizing rest with
  | zero => exact ⟨s, rfl, rfl, hg, (s.busy_eq_false).2 hp, rfl, rfl, hi, fun h => absurd h (lt_irrefl 0)⟩
  | succ n ih =>
    rw [List.replicate_succ', List.flatten_append, List.flatten_singleton, List.append_assoc] at hi
    obtain ⟨t, ht, htcounter, htgen, htbusy, htkey, htnonce, htinputs, -⟩ := ih _ hi (by omega)
    have hc : t.counter ≠ 0xFFFFFFFFFFFFFFFF := by bv_omega
    rw [List.cons_append, ← (runCycles_environment ht).2] at htinputs
    obtain ⟨u, hu, -, hout, hcounter, hvalid, hbusy, hgen, herr, hkey, hnonce, -, hinputs⟩ :=
      nextRunsToItsBlock t _ rest htinputs List.length_replicate (fun c hc => by rw [List.eq_of_mem_replicate hc])
        ((t.busy_eq_false).1 htbusy) htgen hc
    have hblock : u.out = s.keystreamBlock (BitVec.ofNat 64 (s.counter.toNat + (n + 1) - 1)) := by
      calc u.out = t.keystreamBlock t.counter := hout.trans t.keystreamBlock_counter.symm
        _ = s.keystreamBlock t.counter := State.keystreamBlock_congr htkey htnonce _
        _ = s.keystreamBlock (BitVec.ofNat 64 (s.counter.toNat + (n + 1) - 1)) := by
          rw [Nat.add_succ_sub_one, ← htcounter, BitVec.ofNat_toNat, BitVec.setWidth_eq]
    exact ⟨u, (runCycles_add (82 * n) 82 ht).trans hu, by rw [hcounter, toNat_counter_add_one hc, htcounter, add_assoc],
      hgen, hbusy, hkey.trans htkey, hnonce.trans htnonce, hinputs, fun _ => ⟨hblock, hvalid, herr⟩⟩

end Sys2Proof.Machine
end

/-! ### Exceptions: bus errors, idle cycles and exhaustion (60_exceptions.md R89, R90, R93, R100) -/

section
namespace Sys2Proof.Machine

/-- Settles O8: a reset cycle answers, and in any other the host's side answers, a bus error being only an answer. -/
theorem stepAlwaysAnswersNext : Obligations.StepAlwaysAnswersNext := exists_step

/-- In Exhausted every accepted word but a successful INIT leaves STATE, S and OUT (60_exceptions.md R89). -/
theorem Accepts.keeps_exhausted {s u : State} {d : Decoded} (h : Accepts s d u) (hg : s.gen = .exhausted)
    (hd : successfulInit d ≠ true) : u.gen = .exhausted ∧ u.S = s.S ∧ u.out = s.out := by
  have hnotActive : s.gen ≠ .active := by simp [hg]
  obtain ⟨hkey, hnonce, hout⟩ := h.key_nonce_out
  rw [if_neg hd] at hkey hnonce hout
  have hgen : u.gen = s.gen := by simp [h.gen, hd, hnotActive]
  have hcounter : u.counter = s.counter := by simp [h.counter, hd, hnotActive]
  exact ⟨hgen.trans hg, State.S_congr hkey hcounter hnonce, hout⟩

/-- Settles O17: NEXT and SETCTR fail by STATE, and an idle CORE that is not reset changes its registers only by
accepting a word. -/
theorem exhaustedIsTerminal : Obligations.ExhaustedIsTerminal := by
  unfold Obligations.ExhaustedIsTerminal
  intro s hg
  refine ⟨exec_next_of_exhausted hg, exec_setctr_of_not_active (by simp [hg]), fun t hp ht => ?_⟩
  rcases step_effect ht with ⟨hr, -⟩ | ⟨-, -, hregs⟩ | ⟨d, u, -, -, ha, hu, hregs⟩
  · exact .inl hr
  · rw [State.sequencerStep_idle hp] at hregs
    exact .inr (.inr ⟨hregs.gen.trans hg, State.S_congr hregs.key hregs.counter hregs.nonce, hregs.out⟩)
  · by_cases hd : successfulInit d = true
    · exact .inr (.inl (by rw [ha, Option.any_some, hd]))
    · obtain ⟨hgen, hS, hout⟩ := hu.keeps_exhausted hg hd
      exact .inr (.inr ⟨hregs.gen.trans hgen, (State.S_congr hregs.key hregs.counter hregs.nonce).trans hS,
        hregs.out.trans hout⟩)

/-- A fault of the access is the host's answer and all that the host's side does (60_exceptions.md R90). -/
theorem hostSide_of_fault {a : Access} {s : State} {f : Fault} (h : hostAccess a s = .fault f) :
    hostSide (some a) s = .next { s with response := .fault f } := by
  simp only [hostSide, h]

/-- Settles O52: with the faulting access or without it, the cycle is the sequencer's step, but for the answer. -/
theorem busErrorHasNoEffect : Obligations.BusErrorHasNoEffect := by
  unfold Obligations.BusErrorHasNoEffect
  intro s t a rest f hi hf ht
  have hn : s.nextInput = .ofAccess a := State.nextInput_cons hi
  have hwith : step s = .next { s.sequencerStep with response := .fault f, inputs := rest } := by
    have hh : hostSide s.nextInput.access s = .next { s with response := .fault f } := by
      rw [hn]
      exact hostSide_of_fault hf
    rw [step_of_answer (by rw [hn]; rfl) hh, hi, List.tail_cons]
  rw [step_of_noAccess rfl, State.sequencerStep_withInputs, List.tail_cons] at ht
  cases ht
  exact hwith

/-- Settles O50: the cycle is the sequencer's step, and an idle sequencer takes none. -/
theorem idleCoreKeepsState : Obligations.IdleCoreKeepsState := by
  unfold Obligations.IdleCoreKeepsState
  intro s hp hn
  rw [step_of_noAccess hn, State.sequencerStep_idle hp]

end Sys2Proof.Machine
end

/-! ### The reset cycle and the two sides of a busy cycle (70_reset_and_hazards.md R101, R104) -/

section
namespace Sys2Proof.Machine

/-- Settles O49: the step is the reset cycle, whose register files are zero and whose STATUS is that of reset. -/
theorem resetCycleEffect : Obligations.ResetCycleEffect := by
  unfold Obligations.ResetCycleEffect
  intro s hr
  obtain ⟨-, -, hstatus, -⟩ := resetValues
  exact ⟨_, step_of_reset hr, rfl, fun _ => State.storedByte_of_zeroed rfl rfl rfl rfl, hstatus⟩

/-- While PHASE is not IDLE the host's side writes only staging, OVR and the answer: a CMD write is discarded, and no
other access writes more than staging (70_reset_and_hazards.md R104). -/
theorem hostSide_busy_frame {a : Option Access} {s h : State} (hb : s.busy = true) (hh : hostSide a s = .next h) :
    h = { s with
      keystg := h.keystg, ivstg := h.ivstg, ctrstg := h.ctrstg, ovr := h.ovr, response := h.response } := by
  cases hw : cmdWordOf s.page a with
  | none =>
    obtain ⟨t, ht, ks, is, cs, r, rfl⟩ := hostSide_noCommand a s hw
    cases hh.symm.trans ht
    rfl
  | some v =>
    cases a with
    | none => cases hw
    | some a =>
      have hdiscard : hostSide (some a) s = .next { s.discard with response := .done } := by
        simp only [hostSide, hostAccess_cmd hw, commandWrite_busy v s hb, writeDone]
      cases hh.symm.trans hdiscard
      rfl

/-- The sequencer's step writes only X, q, PHASE, OUT, the counter, VALID and the draw count: the ROUND step X, q, PHASE
and the draw count, the FINAL step the others and PHASE (42_round_sequencer.md R74, R77). -/
theorem State.sequencerStep_frame (s : State) :
    s.sequencerStep = { s with
      x := s.sequencerStep.x, q := s.sequencerStep.q, phase := s.sequencerStep.phase, out := s.sequencerStep.out,
      ctrLo := s.sequencerStep.ctrLo, ctrHi := s.sequencerStep.ctrHi, valid := s.sequencerStep.valid,
      draws := s.sequencerStep.draws } := by
  cases hp : s.phase with
  | idle => rw [State.sequencerStep_idle hp]
  | round =>
    rw [State.sequencerStep_round hp]
    conv_lhs => rw [s.roundStep_frame]
    simp
  | final =>
    rw [State.sequencerStep_final hp]
    rfl

/-- Settles O59: the sequencer reads nothing that the host's side of a busy cycle writes, so its step after the host's
is its step beside it. -/
theorem sidesLandTogether : Obligations.SidesLandTogether := by
  unfold Obligations.SidesLandTogether
  intro s h hb hh
  have hframe := hostSide_busy_frame hb hh
  refine ⟨hframe, s.sequencerStep_frame, ?_⟩
  calc s.land h
      = { s.sequencerStep with
          keystg := h.keystg, ivstg := h.ivstg, ctrstg := h.ctrstg, ovr := h.ovr, inputs := s.inputs,
          response := h.response } := by
        rw [State.land_busy (s.busy_eq_true.1 hb), ← s.sequencerStep_inputs]
    _ = h.sequencerStep := by
        conv_rhs => rw [hframe]
        exact (s.sequencerStep_withHost ..).symm

end Sys2Proof.Machine
end
